-- ==== Sys2Proof/Word.lean ====
section
/-! DEFINITION. The words of the hardware: a byte (R5 `BYTE_W`), a slot of a control byte (R5 `OP_W`, R8), and the
`OptByte` of a history register (R9, D20). -/

namespace Sys2Proof

/-- A raw byte, a literal byte or a control byte: unsigned, 8 bits (R5, R9). -/
abbrev Byte := BitVec 8

/-- One 2-bit slot of a control byte: an op-code or a selector (R5, R56). -/
abbrev Slot := BitVec 2

/-- `OptByte` of R9: a pair (`def` 1 bit, `val` 8 bits). `⊥` is `def = 0`; no rule reads `val` then (R33, D20). -/
structure OptByte where
  /-- The `def` bit. -/
  isDef : Bool
  /-- The `val` field, meaningless while `isDef` is `false`. -/
  val : Byte
  deriving DecidableEq, Repr

/-- `⊥` with its `val` field at the value R33 resets it to. -/
def OptByte.undef : OptByte := ⟨false, 0#8⟩

/-- A defined `OptByte`. -/
def OptByte.ofByte (b : Byte) : OptByte := ⟨true, b⟩

end Sys2Proof
end

