-- ==== Sys2Proof/Config.lean ====
section
/-! DEFINITION. The parameters the format fixes (R5), the bounds the spec derives from the rules (R6), and the two open
timing parameters (R7, R162, D14). -/

namespace Sys2Proof.Config

/-- `BYTE_W` of R5. -/
def byteW : Nat := 8
/-- `OP_W` of R5. -/
def opW : Nat := 2
/-- `SLOTS` of R5: op-code slots per control byte. -/
def slots : Nat := 4
/-- `SEL_W` of R5. -/
def selW : Nat := 2
/-- `N_OPT` of R5: options ODR derives. -/
def nOpt : Nat := 4
/-- `HIST` of R5: depth of the PrevPair. -/
def hist : Nat := 2
/-- `SENTINEL` of R5. -/
def sentinel : Byte := 0x01#8
/-- `PAD_BYTE` of R5. -/
def padByte : Byte := 0x00#8

/-- `ACC_MAX` of R6: most bits in the ENC accumulator during a step. -/
def accMax : Nat := 10
/-- `LIT_MAX` of R6: most literal bytes in one chunk. -/
def litMax : Nat := 4
/-- `CHUNK_MAX` of R6: most bytes in one chunk. -/
def chunkMax : Nat := 5
/-- `PAD_MAX` of R6: most padding passes at end of input. -/
def padMax : Nat := 4
/-- `END_OUT_MAX` of R6: most bytes ENC writes while it handles `END`. -/
def endOutMax : Nat := 6

/-- `ENC_LAT`: left open by R162 and D14, so it has no body; no rule and no definition depends on it (log 13). -/
opaque encLat : Nat

/-- `DEC_LAT`: left open by R162 and D14, so it has no body; no rule and no definition depends on it (log 13). -/
opaque decLat : Nat

end Sys2Proof.Config
end

