-- ==== Sys2Proof/Syntax.lean ====
section
/-! DEFINITION. The instructions (30_encoding.md; one constructor per row of spec/opcode_table.json) and the tokens of the
two input streams (R37). -/

namespace Sys2Proof

/-- The fields of an encoded stream, in the notation of R67. An instruction carries the operands that R65 counts into
its length: LIT its literal byte, MODP its selector. -/
inductive Instr where
  /-- LIT, op-code `00`: the literal byte in the stream after the control byte (R58, R61). -/
  | lit (literal : Byte)
  /-- MODP, op-code `01`: the selector in the next slot (R57, R58, R60). -/
  | modp (sel : BitVec 2)
  /-- REP2, op-code `10` (R58). -/
  | rep2
  /-- REP1, op-code `11` (R58). -/
  | rep1
  /-- SENT, the sentinel control byte (R59). -/
  | sent
  deriving DecidableEq, Repr

/-- A token of `enc_in` (R37, D2). -/
inductive EncToken where
  /-- `Byte(b)`. -/
  | byte (b : Byte)
  /-- `END`, the end of the raw sequence. -/
  | endTok
  deriving DecidableEq, Repr

/-- A token of `dec_in` (R37, D2). -/
inductive DecToken where
  /-- `Byte(b)`. -/
  | byte (b : Byte)
  /-- `EOF`: the encoded sequence is exhausted. -/
  | eof
  deriving DecidableEq, Repr

end Sys2Proof
end

