-- ==== Sys2Proof/WellFormed.lean ====
section
/-! DEFINITION. When a listing of fields (R67) is a well-formed stream (R55, R57, R64). The operands of a single
instruction are bounded by their types: every literal and every selector is legal (R60, R61, R63), so the checks are on where an
instruction stands. -/

namespace Sys2Proof

/-- How many slots a field takes (R65). SENT is a whole control byte, four slots (R59). -/
def Instr.slotCount : Instr → Nat
  | .lit _ => 1
  | .modp _ => 2
  | .rep2 => 1
  | .rep1 => 1
  | .sent => 4

/-- How many literal bytes a field takes (R65). -/
def Instr.literalCount : Instr → Nat
  | .lit _ => 1
  | .modp _ => 0
  | .rep2 => 0
  | .rep1 => 0
  | .sent => 0

/-- Whether an instruction may stand at this slot of a control byte (0 to 3): an op-code anywhere, SENT only where a new
control byte begins (R59, R67). -/
def Instr.fitsAt (slot : Nat) : Instr → Bool
  | .lit _ => slot < Config.slots
  | .modp _ => slot < Config.slots
  | .rep2 => slot < Config.slots
  | .rep1 => slot < Config.slots
  | .sent => slot == 0

namespace Listing

/-- The fields fill a whole number of control bytes (R67). -/
def fillsControlBytes (l : List Instr) : Bool :=
  (l.map Instr.slotCount).sum % Config.slots == 0

/-- Every field stands where it may, the first at this slot (R67). -/
def fits : Nat → List Instr → Bool
  | _, [] => true
  | slot, i :: l => i.fitsAt slot && fits ((slot + i.slotCount) % Config.slots) l

/-- SENT is the last field of the stream and stands nowhere else (R55). -/
def endsWithSent : List Instr → Bool
  | [] => false
  | [i] => i == .sent
  | i :: l => i != .sent && endsWithSent l

/-- Every field finds the history entry it refers to, when this many bytes have been written before it: REP1 and MODP need
one, REP2 needs two (R34, R64). -/
def historyDefined : Nat → List Instr → Bool
  | _, [] => true
  | n, .lit _ :: l => historyDefined (n + 1) l
  | n, .modp _ :: l => decide (1 ≤ n) && historyDefined (n + 1) l
  | n, .rep1 :: l => decide (1 ≤ n) && historyDefined (n + 1) l
  | n, .rep2 :: l => decide (2 ≤ n) && historyDefined (n + 1) l
  | n, .sent :: l => historyDefined n l

/-- A well-formed stream as a listing (R55, R57, R64, R67). The reserved control byte value (R62) is the matter of
`Listing.collisionFree`, beside the encoder. -/
def wellFormed (l : List Instr) : Bool :=
  fillsControlBytes l && fits 0 l && endsWithSent l && historyDefined 0 l

end Listing
end Sys2Proof
end

