-- ==== Sys2Proof/Decode.lean ====
section
/-! DEFINITION. Reading a field from the encoded stream (R8, R56 to R61, R111 to R113, R116, R117, R119, R122), then
the encoder over the same op-code map (R58, R59), the assembler and disassembler of listings (R67), and the words of
spec/opcode_table.json. -/

namespace Sys2Proof

/-! ### The op-code map -/

/-- The four op-codes of R58. -/
inductive OpCode where
  /-- `00`, Literal. -/
  | literal
  /-- `01`, ModifyPrev. -/
  | modifyPrev
  /-- `10`, RepeatSecondLast. -/
  | repeatSecondLast
  /-- `11`, RepeatLast. -/
  | repeatLast
  deriving DecidableEq, Repr

/-- The value of an op-code in its slot (R58). -/
def OpCode.toSlot : OpCode → Slot
  | .literal => 0b00#2
  | .modifyPrev => 0b01#2
  | .repeatSecondLast => 0b10#2
  | .repeatLast => 0b11#2

/-- The op-code a slot holds: every 2-bit value is one (R58, R63). -/
def OpCode.ofSlot (s : Slot) : OpCode :=
  if s = 0b00#2 then .literal
  else if s = 0b01#2 then .modifyPrev
  else if s = 0b10#2 then .repeatSecondLast
  else .repeatLast

/-! ### The decoder -/

/-- Where DEC stands: the current control byte, how many of its bits are unconsumed, and the tokens not yet taken (R24,
R27). -/
structure Cursor where
  /-- `dec_ctrl`. -/
  ctrl : Byte
  /-- `dec_rem`. -/
  rem : BitVec 4
  /-- The tokens of `dec_in` that have been offered and not taken. -/
  inp : List DecToken
  deriving DecidableEq, Repr

/-- Why the stream ends before a field is complete: the three names by which the decoder rejects (R112, R116, R117, R133).
Safe: each is a stop the spec describes. -/
inductive StreamEnd where
  /-- The stream ends where a control byte is expected at a slot boundary (R112). -/
  | eofCtrl
  /-- The stream ends where a literal byte is expected (R117). -/
  | eofLit
  /-- The stream ends where the control byte of a selector is expected (R116). -/
  | eofSel
  deriving DecidableEq, Repr

/-- What the decoder answers. -/
inductive Decoded where
  /-- A whole field, and the cursor after it. -/
  | instr (i : Instr) (after : Cursor)
  /-- The end token stands where the field goes on (R112, R116, R117); the cursor has taken it (R121). -/
  | ends (why : StreamEnd) (after : Cursor)
  /-- The next token the field needs has not been offered: DEC waits, with what it has taken so far (R39, R145; log 5). -/
  | starved (waiting : Cursor)
  deriving DecidableEq, Repr

/-- What fetching a control byte gives (R112). -/
inductive Fetched where
  /-- A control byte to read slots from. -/
  | loaded (c : Cursor)
  /-- The control byte 0x01, which is not read as slots (R112, R119, R122). -/
  | sentinel (c : Cursor)
  /-- `EOF`. -/
  | exhausted (c : Cursor)
  /-- No token has been offered. -/
  | starved
  deriving DecidableEq, Repr

/-- `FetchCtrl` of R112: `InRead()`, then the test for `EOF` and the test for the sentinel, else the byte is loaded with
8 unconsumed bits (R24). -/
def fetchCtrl (c : Cursor) : Fetched :=
  match c.inp with
  | [] => .starved
  | .eof :: rest => .exhausted { c with inp := rest }
  | .byte b :: rest =>
    if b = Config.sentinel then .sentinel { c with inp := rest }
    else .loaded { ctrl := b, rem := 8#4, inp := rest }

/-- The next slot, `dec_ctrl[dec_rem-1 : dec_rem-2]` (R24, R113). -/
def slotAt (ctrl : Byte) (rem : BitVec 4) : Slot :=
  ctrl.extractLsb' (rem.toNat - 2) 2

/-- Reading a slot uses up its two bits (R113). -/
def Cursor.dropSlot (c : Cursor) : Cursor :=
  { c with rem := c.rem - 2#4 }

/-- The literal operand (R61, R117): the next byte of the stream, whatever its value. `before` is the cursor DEC waits at
when no token has been offered. -/
def readLiteral (before c : Cursor) : Decoded :=
  match c.inp with
  | [] => .starved before
  | .eof :: rest => .ends .eofLit { c with inp := rest }
  | .byte b :: rest => .instr (.lit b) { c with inp := rest }

/-- The selector in the next slot of the current control byte (R60, R116). -/
def selectorHere (c : Cursor) : Decoded :=
  .instr (.modp (slotAt c.ctrl c.rem)) c.dropSlot

/-- The selector operand (R57, R116): in the next slot, or in slot 0 of the next control byte, to which the sentinel test
applies (R122). -/
def readSelector (before c : Cursor) : Decoded :=
  if c.rem = 0#4 then
    match fetchCtrl c with
    | .starved => .starved before
    | .exhausted c' => .ends .eofSel c'
    | .sentinel c' => .instr .sent c'
    | .loaded c' => selectorHere c'
  else selectorHere c

/-- Read the op-code in the next slot, then its operand (R111, R113). -/
def decodeField (c : Cursor) : Decoded :=
  match OpCode.ofSlot (slotAt c.ctrl c.rem) with
  | .literal => readLiteral c c.dropSlot
  | .modifyPrev => readSelector c c.dropSlot
  | .repeatSecondLast => .instr .rep2 c.dropSlot
  | .repeatLast => .instr .rep1 c.dropSlot

/-- The decoder: one field of the stream (R111 to R113, R116, R117, R119). Total on every control byte, count and
token list. -/
def decode (c : Cursor) : Decoded :=
  if c.rem = 0#4 then
    match fetchCtrl c with
    | .starved => .starved c
    | .exhausted c' => .ends .eofCtrl c'
    | .sentinel c' => .instr .sent c'
    | .loaded c' => decodeField c'
  else decodeField c

/-- Whether the field at the cursor needs a token before it is complete: DEC raises `in_ready` only then (R39). -/
def needsToken (c : Cursor) : Bool :=
  if c.rem = 0#4 then true
  else
    match OpCode.ofSlot (slotAt c.ctrl c.rem) with
    | .literal => true
    | .modifyPrev => c.rem == 2#4
    | .repeatSecondLast => false
    | .repeatLast => false

/-! ### The encoder -/

/-- The slots of a field, in stream order (R57, R58, R60). SENT is the control byte 0x01, whose slots are `00 00 00 01`
(R59). -/
def slotsOf : Instr → List Slot
  | .lit _ => [OpCode.literal.toSlot]
  | .modp sel => [OpCode.modifyPrev.toSlot, sel]
  | .rep2 => [OpCode.repeatSecondLast.toSlot]
  | .rep1 => [OpCode.repeatLast.toSlot]
  | .sent => [0b00#2, 0b00#2, 0b00#2, 0b01#2]

/-- The literal bytes of a field (R58, R61). -/
def literalsOf : Instr → List Byte
  | .lit literal => [literal]
  | .modp _ => []
  | .rep2 => []
  | .rep1 => []
  | .sent => []

/-- The encoding of one instruction: its slots, and the bytes that follow its control byte (R58, R59, R65). -/
def encode (i : Instr) : List Slot × List Byte :=
  (slotsOf i, literalsOf i)

/-- Four slots as a control byte, slot 0 in the most significant pair (R8, R56). -/
def packByte (s0 s1 s2 s3 : Slot) : Byte :=
  s0 ++ s1 ++ s2 ++ s3

/-- The assembler of R67, from the slots and literals that wait for their control byte: a control byte as soon as four
slots are there, then the literals of its LIT slots. It refuses a listing that does not fill whole control bytes, or whose
SENT does not begin one. -/
def assembleFrom (pending : List Slot) (literals : List Byte) : List Instr → Option (List Byte)
  | [] => if pending.isEmpty then some [] else none
  | i :: l =>
    if i = .sent && !pending.isEmpty then none
    else
      match pending ++ slotsOf i with
      | s0 :: s1 :: s2 :: s3 :: spare =>
        (assembleFrom spare [] l).map
          (fun bytes => packByte s0 s1 s2 s3 :: (literals ++ literalsOf i ++ bytes))
      | short => assembleFrom short (literals ++ literalsOf i) l

/-- `assemble` of R67: the bytes of a listing. -/
def assemble (l : List Instr) : Option (List Byte) :=
  assembleFrom [] [] l

/-- The disassembler of R67: DEC's parse without the output, for at most `fuel` fields. It stops after SENT, and answers the
name of the end it met if it met one. DESIGN CHOICE (log 21): R67 does not say whether it goes on past a field at which DEC
would stop with `UNDEF_REF`; this parse keeps no history and does. Unsafe for a claim that DEC runs every field it lists. -/
def parse : Nat → Cursor → List Instr × Option StreamEnd
  | 0, _ => ([], none)
  | fuel + 1, c =>
    match decode c with
    | .starved _ => ([], none)
    | .ends why _ => ([], some why)
    | .instr .sent _ => ([.sent], none)
    | .instr i after => (i :: (parse fuel after).1, (parse fuel after).2)

/-- A stream as the host gives it to DEC: its bytes, then `EOF` (R37). -/
def decTokens (bytes : List Byte) : List DecToken :=
  bytes.map DecToken.byte ++ [DecToken.eof]

/-- The cursor before a stream's first token (R153). -/
def Cursor.start (bytes : List Byte) : Cursor :=
  { ctrl := 0#8, rem := 0#4, inp := decTokens bytes }

/-- Disassembly of a whole stream (R67): a stream of `n` bytes holds at most 4 fields for each of its tokens (R163). An
undefined reference does not end it: DESIGN CHOICE, log 21. -/
def disassemble (bytes : List Byte) : List Instr × Option StreamEnd :=
  parse (4 * (bytes.length + 1) + 1) (Cursor.start bytes)

/-- No four consecutive slots, taken from the first, make a control byte of value 0x01. -/
def slotsCollisionFree : List Slot → Bool
  | s0 :: s1 :: s2 :: s3 :: rest => packByte s0 s1 s2 s3 != Config.sentinel && slotsCollisionFree rest
  | _ => true

/-- No control byte of these fields is a collision, the reserved value 0x01 (R62). For the fields before SENT. -/
def Listing.collisionFree (fields : List Instr) : Bool :=
  slotsCollisionFree (fields.flatMap slotsOf)

/-! ### The words of spec/opcode_table.json -/

/-- The slots of a field as the low bits of a control byte, the last slot lowest, as the table numbers a row's bits. -/
def packLow : List Slot → Byte
  | [] => 0#8
  | [s0] => packByte 0 0 0 s0
  | [s0, s1] => packByte 0 0 s0 s1
  | [s0, s1, s2] => packByte 0 s0 s1 s2
  | s0 :: s1 :: s2 :: s3 :: _ => packByte s0 s1 s2 s3

/-- The cursor at which one instruction stands next: its slots are the last ones of the current control byte and its literal
is the next token; SENT is the next token (R59, R61, R113). -/
def encodeCursor (i : Instr) (rest : List DecToken) : Cursor :=
  match i with
  | .sent => { ctrl := 0#8, rem := 0#4, inp := .byte Config.sentinel :: rest }
  | .lit _ | .modp _ | .rep2 | .rep1 =>
    { ctrl := packLow (slotsOf i), rem := BitVec.ofNat 4 (2 * (slotsOf i).length),
      inp := (literalsOf i).map DecToken.byte ++ rest }

/-- How many bits of a table word are slots of the current control byte: the row formats `slot2` (2), `slot2+sel2` (4) and
`ctrl8` (0: the word is a whole control byte, still to be fetched). The table gives every row less than a byte but SENT, so
the format is read off the word where the width does not settle it (log 14). -/
def tableSlotBits (nbits w : Nat) : Nat :=
  if nbits ≤ 2 then 2
  else if nbits ≤ 4 then 4
  else if w % 256 = 1 then 0
  else if w / 4 % 4 = 1 then 4
  else 2

/-- The cursor for a table word. The operand byte that the table gives no bits, LIT's literal or the next control byte of a
selector, is 0x00 (log 14). -/
def tableCursor (nbits w : Nat) : Cursor :=
  if tableSlotBits nbits w = 0 then
    { ctrl := 0#8, rem := 0#4, inp := [.byte (BitVec.ofNat 8 w)] }
  else
    let c : Cursor :=
      { ctrl := BitVec.ofNat 8 w, rem := BitVec.ofNat 4 (tableSlotBits nbits w), inp := [] }
    if needsToken c then { c with inp := [.byte 0#8] } else c

/-- The instruction the decoder reads from a word of spec/opcode_table.json. -/
def decodeTableWord (nbits w : Nat) : Option Instr :=
  match decode (tableCursor nbits w) with
  | .instr i _ => some i
  | .ends _ _ => none
  | .starved _ => none

end Sys2Proof
end

