-- ==== Sys2Proof/Machine/State.lean ====
section
/-! DEFINITION. The state of the machine as plain data: every register of R15 and R22, the four streams of R35, the pins
of R38 the host drives, and the host's pending actions (log 3); its value right after reset (R32); and the reasons a step can end without
a next state. -/

namespace Sys2Proof.Machine

/-- `RUN` or `DONE`, the 1-bit phase of a block (R15, R20, R22, R25, D10). -/
inductive Phase where
  /-- `RUN`, 0. -/
  | run
  /-- `DONE`, 1. -/
  | done
  deriving DecidableEq, Repr

/-- `dec_status`: why DEC's run ended (R25, R134). Its codes stand in `DecStatus.code`; 6 and 7 never occur. -/
inductive DecStatus where
  /-- 0 `NONE`: DEC has not stopped. -/
  | none
  /-- 1 `SENTINEL`: control byte 0x01 fetched. -/
  | sentinel
  /-- 2 `EOF_CTRL`: the stream ended where a control byte was expected. -/
  | eofCtrl
  /-- 3 `EOF_LIT`: the stream ended where a literal byte was expected. -/
  | eofLit
  /-- 4 `EOF_SEL`: the stream ended where the control byte of a selector was expected. -/
  | eofSel
  /-- 5 `UNDEF_REF`: an undefined history entry was read. -/
  | undefRef
  deriving DecidableEq, Repr

/-- ENC: its registers (R15), its two streams (R35), the pins the host drives (R38), and an output in progress (R39). -/
structure EncState where
  /-- `enc_p0`: second-to-last byte processed (R16). -/
  p0 : OptByte
  /-- `enc_p1`: last byte processed (R16). -/
  p1 : OptByte
  /-- `enc_acc`: op-code and selector bits not yet flushed (R17). -/
  acc : BitVec 10
  /-- `enc_accn`: number of valid bits in `enc_acc` (R18). -/
  accn : BitVec 4
  /-- `enc_lit[0..3]`: pending literal bytes, oldest at index 0 (R19). -/
  lit : Vector Byte 4
  /-- `enc_litn`: number of pending literal bytes (R19). -/
  litn : BitVec 3
  /-- `enc_phase` (R20). -/
  phase : Phase
  /-- `enc_coll`: a collision has been emitted since reset (R21). -/
  coll : Bool
  /-- `enc_in`: tokens offered and not taken (R35, R37). -/
  inp : List EncToken
  /-- `enc_out`: bytes that have moved to the host, oldest first (R35). -/
  out : List Byte
  /-- The MODEL's own field: bytes of the step in progress that wait at the output port (R39, D13; log 1). -/
  outq : List Byte
  /-- The MODEL's own field: `EncEnd` has only its waiting bytes left to move, and then `DONE` (R20, R100; log 1). -/
  closing : Bool
  /-- The `rst` pin of ENC (R38, R151). -/
  rst : Bool
  /-- The `out_ready` pin of ENC (R38, R39). -/
  outReady : Bool
  deriving DecidableEq, Repr

/-- DEC: its registers (R22), its two streams (R35), the pins the host drives (R38), and an output in progress (R39). -/
structure DecState where
  /-- `dec_p0`: second-to-last byte written (R23). -/
  p0 : OptByte
  /-- `dec_p1`: last byte written (R23). -/
  p1 : OptByte
  /-- `dec_ctrl`: the current control byte (R24). -/
  ctrl : Byte
  /-- `dec_rem`: unconsumed bits of `dec_ctrl` (R24). -/
  rem : BitVec 4
  /-- `dec_phase` (R25). -/
  phase : Phase
  /-- `dec_status` (R25, R134). -/
  status : DecStatus
  /-- `dec_in`: tokens offered and not taken (R35, R37). -/
  inp : List DecToken
  /-- `dec_out`: bytes that have moved to the host, oldest first (R35). -/
  out : List Byte
  /-- The MODEL's own field: the byte of the step in progress that waits at the output port (R39, D13; log 1). -/
  outq : List Byte
  /-- The `rst` pin of DEC (R38, R151). -/
  rst : Bool
  /-- The `out_ready` pin of DEC (R38, R39). -/
  outReady : Bool
  deriving DecidableEq, Repr

/-- What the host outside CORE can do to it, one action a step (R37, R38, R48, R151, R155; log 3). -/
inductive HostAction where
  /-- Offer ENC a token behind those already offered. -/
  | offerEnc (t : EncToken)
  /-- Offer DEC a token behind those already offered. -/
  | offerDec (t : DecToken)
  /-- Drive the `rst` pin of ENC. -/
  | driveEncRst (level : Bool)
  /-- Drive the `rst` pin of DEC. -/
  | driveDecRst (level : Bool)
  /-- Drive the `out_ready` pin of ENC. -/
  | driveEncReady (level : Bool)
  /-- Drive the `out_ready` pin of DEC. -/
  | driveDecReady (level : Bool)
  /-- Take one byte that waits at ENC's output port. -/
  | takeEnc
  /-- Take the byte that waits at DEC's output port. -/
  | takeDec
  /-- While ENC is held in reset: drop the tokens offered to it, for a new sequence (R155, G1). -/
  | dropEnc
  /-- While DEC is held in reset: drop the tokens offered to it, for a new sequence (R155, G1). -/
  | dropDec
  /-- Only ENC makes its next step. -/
  | letEnc
  /-- Only DEC makes its next step. -/
  | letDec
  deriving DecidableEq, Repr

/-- The machine CORE (R1): ENC and DEC, which share nothing (R48, R143), and the host actions still to come. ODR holds no
state (R14). -/
structure State where
  /-- ENC. -/
  enc : EncState
  /-- DEC. -/
  dec : DecState
  /-- The MODEL's own field: the host actions still to come; when it is empty both blocks make their next step (log 3, log 4). -/
  host : List HostAction
  deriving DecidableEq, Repr

/-- The hardware raises no fault: no trap exists (R131), ODR and ENC raise nothing (R132), and DEC's end conditions are
stops that leave a next state (R133, R136). So this type has no constructor. -/
inductive Fault where
  deriving DecidableEq, Repr

/-- Why a step is refused. -/
inductive Refusal where
  /-- No meaning for the instruction: raised by an arm of `exec` that has none. Safe. No arm raises it. -/
  | notModelled (mnemonic : String)
  /-- ENC would take a token while `enc_accn` is not 0, 2, 4 or 6, or `enc_litn` is above 3: raised by `encTurn`, as I12
  treats these unreachable values. Safe. -/
  | unreachableEnc
  /-- DEC would run while `dec_rem` is odd or above 8: raised by `decTurn`, as I12 treats these unreachable values. Safe. -/
  | unreachableDec
  deriving DecidableEq, Repr

/-- ENC right after reset: the reset column of R15 (R32, R33), nothing offered, nothing written, `rst` deasserted, the host ready
to take bytes (log 2, log 10). -/
def EncState.reset : EncState :=
  { p0 := .undef, p1 := .undef, acc := 0#10, accn := 0#4, lit := #v[0#8, 0#8, 0#8, 0#8], litn := 0#3,
    phase := .run, coll := false, inp := [], out := [], outq := [], closing := false, rst := false, outReady := true }

/-- DEC right after reset: the reset column of R22 (R32, R33), nothing offered, nothing written, `rst` deasserted, the host ready
to take bytes (log 2, log 10). -/
def DecState.reset : DecState :=
  { p0 := .undef, p1 := .undef, ctrl := 0#8, rem := 0#4, phase := .run, status := .none,
    inp := [], out := [], outq := [], rst := false, outReady := true }

/-- The machine right after reset (R32). -/
def State.reset : State :=
  { enc := .reset, dec := .reset, host := [] }

end Sys2Proof.Machine
end

