-- ==== Sys2Proof/Machine/Flags.lean ====
section
/-! DEFINITION. The flags of R28: the collision test (R97), the status codes (R29, R134) and the four status outputs
(R29). -/

namespace Sys2Proof.Machine

/-- A data-bearing control byte of value 0x01 is a collision (R62, R97). -/
def isCollision (c : Byte) : Bool := c == Config.sentinel

/-- A phase as its bit (R15, R22). -/
def Phase.bit : Phase → Bool
  | .run => false
  | .done => true

/-- The 3-bit code of a status (R29, R134). -/
def DecStatus.code : DecStatus → BitVec 3
  | .none => 0#3
  | .sentinel => 1#3
  | .eofCtrl => 2#3
  | .eofLit => 3#3
  | .eofSel => 4#3
  | .undefRef => 5#3

/-- The output `enc_done` (R29, R100). -/
def encDone (s : State) : Bool := s.enc.phase.bit

/-- The output `enc_collision` (R29, R144). -/
def encCollision (s : State) : Bool := s.enc.coll

/-- The output `dec_done` (R29, R120). -/
def decDone (s : State) : Bool := s.dec.phase.bit

/-- The output `dec_status` (R29). -/
def decStatusCode (s : State) : BitVec 3 := s.dec.status.code

end Sys2Proof.Machine
end

