-- ==== Sys2Proof/Machine/Odr.lean ====
section
/-! DEFINITION. The option deriver ODR (40_option_deriver.md): four options of a byte, or the empty list (R75 to R84). A
function of its present input alone (R14, R85). -/

namespace Sys2Proof.Machine

/-- `x << 1` of R10: it keeps bit 8, so the result is 0 to 510 until masked. -/
def shl1 (x : Byte) : BitVec 9 := x.setWidth 9 <<< 1

/-- `x >> 1` of R10, a logical shift. -/
def shr1 (x : Byte) : Byte := x >>> 1

/-- `opt0`: OR with the left shift, masked to 8 bits (R78, I3). -/
def opt0 (b : Byte) : Byte := b ||| (shl1 b &&& 0xFF#9).setWidth 8

/-- `opt1`: AND with the left shift (R79). -/
def opt1 (b : Byte) : Byte := (b.setWidth 9 &&& shl1 b).setWidth 8

/-- `opt2`: OR with the right shift (R80). -/
def opt2 (b : Byte) : Byte := b ||| shr1 b

/-- `opt3`: AND with the right shift (R81). -/
def opt3 (b : Byte) : Byte := b &&& shr1 b

/-- `ODR(x)` of R76. For `⊥` it is the empty list: the four output bytes then carry no value (R76, I2). -/
def odr (x : OptByte) : List Byte :=
  if x.isDef then [opt0 x.val, opt1 x.val, opt2 x.val, opt3 x.val] else []

/-- The output `od_out_def` (R75, R76). -/
def odOutDef (x : OptByte) : Bool := x.isDef

end Sys2Proof.Machine
end

