-- ==== Sys2Proof/Machine/Operands.lean ====
section
/-! DEFINITION. The implicit operands of the op-codes: the history entries (R9, R26) and the selected option (R60, R116).
The operands that stand in the stream, the literal (R61) and the selector (R60), are read by the decoder. -/

namespace Sys2Proof

/-- The value of a history register, `none` for `⊥`: `val` is read only when `def` is 1 (R9, R33). -/
def OptByte.toOption (x : OptByte) : Option Byte :=
  if x.isDef then some x.val else none

/-- The comparison `x == y` of R9: `⊥` equals no byte. -/
def OptByte.eqByte (x : OptByte) (y : Byte) : Bool :=
  x.isDef && x.val == y

namespace Machine

/-- The operand of REP2 (R114): `dec_p0`, if it is defined. -/
def secondLastOperand (d : DecState) : Option Byte := d.p0.toOption

/-- The operand of REP1 (R115): `dec_p1`, if it is defined. -/
def lastOperand (d : DecState) : Option Byte := d.p1.toOption

/-- The operand of MODP (R60, R116): option `sel` of `ODR(dec_p1)`, if `dec_p1` is defined. -/
def optionOperand (sel : BitVec 2) (d : DecState) : Option Byte := (odr d.p1)[sel.toNat]?

/-- The lowest index at which a byte stands among the options (R91, D3). -/
def lowestIndex (b : Byte) (options : List Byte) : Option (BitVec 2) :=
  (options.findIdx? (· == b)).map (BitVec.ofNat 2)

end Machine
end Sys2Proof
end

