-- ==== Sys2Proof/Machine/Ops.lean ====
section
/-! DEFINITION. The shared operations: reset, the history update, `OutWrite`, the ENC accumulator and its flush, the end of
a DEC step by an output byte, and the stop, which stands where a processor takes an exception (R120, R136). -/

namespace Sys2Proof.Machine

/-! ### Reset -/

/-- ENC with `rst = 1` at a clock edge: every register takes its reset value and no byte waits at the output port any more
(R151); the bytes moved stay with the host (R152), the tokens offered stay offered (log 9), and the pins are the host's. -/
def encReset (e : EncState) : EncState :=
  { EncState.reset with inp := e.inp, out := e.out, rst := e.rst, outReady := e.outReady }

/-- DEC with `rst = 1` at a clock edge (R151, R152). -/
def decReset (d : DecState) : DecState :=
  { DecState.reset with inp := d.inp, out := d.out, rst := d.rst, outReady := d.outReady }

/-! ### ENC -/

/-- `OutWrite` of some bytes in order (R11, R40): they move at once while the host is ready to take them, and else wait at the
output port behind those that wait there (R39). -/
def encOutWrite (bytes : List Byte) (e : EncState) : EncState :=
  if e.outReady && e.outq.isEmpty then { e with out := e.out ++ bytes }
  else { e with outq := e.outq ++ bytes }

/-- The next `n` waiting bytes move to the host (R39); with the last byte of `EncEnd` moved, ENC is in `DONE` (R20, R100). -/
def encMove (n : Nat) (e : EncState) : EncState :=
  { e with
    out := e.out ++ e.outq.take n
    outq := e.outq.drop n
    phase := if e.closing && (e.outq.drop n).isEmpty then .done else e.phase
    closing := e.closing && !(e.outq.drop n).isEmpty }

/-- Every byte ENC has written, those that still wait at the output port included. -/
def encWritten (e : EncState) : List Byte := e.out ++ e.outq

/-- `Append(v, 2)` of R17 and R88: every field ENC appends is one slot. -/
def encAppend (v : Slot) (e : EncState) : EncState :=
  { e with acc := (e.acc <<< 2) ||| v.setWidth 10, accn := e.accn + 2#4 }

/-- The literal buffer takes one more byte (R93). -/
def encPushLiteral (b : Byte) (e : EncState) : EncState :=
  { e with lit := e.lit.setIfInBounds e.litn.toNat b, litn := e.litn + 1#3 }

/-- The history update of R16 and R94. -/
def encHistory (b : Byte) (e : EncState) : EncState :=
  { e with p0 := e.p1, p1 := .ofByte b }

/-- The pending literal bytes, oldest first (R19, R96). -/
def encPending (e : EncState) : List Byte :=
  e.lit.toList.take e.litn.toNat

/-- The oldest 8 valid bits, `enc_acc[enc_accn-1 : enc_accn-8]` (R17, R95). -/
def encControl (e : EncState) : Byte :=
  e.acc.extractLsb' (e.accn.toNat - 8) 8

/-- The bits a flush leaves, `enc_acc[enc_accn-9 : 0]` (R95). -/
def encLeftover (e : EncState) : BitVec 10 :=
  e.acc &&& ((1#10 <<< (e.accn.toNat - 8)) - 1#10)

/-- `Flush()` of R95: one chunk, the control byte and then its literals (R96), with the collision flag (R97). -/
def encFlush (e : EncState) : EncState :=
  encOutWrite (encControl e :: encPending e)
    { e with acc := encLeftover e, accn := e.accn - 8#4, coll := e.coll || isCollision (encControl e), litn := 0#3 }

/-- `while enc_accn >= 8: Flush()` of R88. A 4-bit count is below 8 after one flush, so the loop runs at most once
(R95). -/
def encFlushFull (e : EncState) : EncState :=
  if 8 ≤ e.accn.toNat then encFlush e else e

/-- The register values ENC can rest at (R18, R19); the others I12 calls unreachable. -/
def encLegal (e : EncState) : Bool :=
  (e.accn == 0#4 || e.accn == 2#4 || e.accn == 4#4 || e.accn == 6#4) && decide (e.litn.toNat ≤ 3)

/-! ### DEC -/

/-- The history update of R23 and R118. -/
def decHistory (v : Byte) (d : DecState) : DecState :=
  { d with p0 := d.p1, p1 := .ofByte v }

/-- `OutWrite(v)` (R11): it moves at once while the host is ready to take it, and else waits at the output port (R39). -/
def decOutWrite (v : Byte) (d : DecState) : DecState :=
  if d.outReady && d.outq.isEmpty then { d with out := d.out ++ [v] }
  else { d with outq := d.outq ++ [v] }

/-- The next `n` waiting bytes move to the host (R39). -/
def decMove (n : Nat) (d : DecState) : DecState :=
  { d with out := d.out ++ d.outq.take n, outq := d.outq.drop n }

/-- Every byte DEC has written, one that still waits at the output port included. -/
def decWritten (d : DecState) : List Byte := d.out ++ d.outq

/-- A step that ends in an output byte: write it, then update the history (R118). In `DONE` nothing is written (R25; log 11). -/
def decEmit (v : Byte) (d : DecState) : DecState :=
  match d.phase with
  | .run => decHistory v (decOutWrite v d)
  | .done => d

/-- `stop(s)` of R120 and R136: the status and the phase are written, and nothing else. `dec_status` is written once (R25), so
in `DONE` it holds (log 11). -/
def decStop (why : DecStatus) (d : DecState) : DecState :=
  match d.phase with
  | .run => { d with status := why, phase := .done }
  | .done => d

/-- The end of an op-code that copies an operand: the byte is written, or `UNDEF_REF` when the operand is undefined (R114
to R116, D4). -/
def decEmitOrStop (operand : Option Byte) (d : DecState) : DecState :=
  match operand with
  | some v => decEmit v d
  | none => decStop .undefRef d

/-- Where DEC stands in its stream (R27). -/
def decCursor (d : DecState) : Cursor :=
  { ctrl := d.ctrl, rem := d.rem, inp := d.inp }

/-- DEC moved to a cursor: what a fetch and the slot reads of a step write (R24, R112, R113). -/
def decMoveTo (c : Cursor) (d : DecState) : DecState :=
  { d with ctrl := c.ctrl, rem := c.rem, inp := c.inp }

/-- The status of a stream that ended too early (R133, R134). -/
def endStatus : StreamEnd → DecStatus
  | .eofCtrl => .eofCtrl
  | .eofLit => .eofLit
  | .eofSel => .eofSel

/-- The counts `dec_rem` can hold (R22, R24); the others I12 calls unreachable. -/
def decLegal (d : DecState) : Bool :=
  d.rem == 0#4 || d.rem == 2#4 || d.rem == 4#4 || d.rem == 6#4 || d.rem == 8#4

/-- The state with DEC changed. -/
def State.onDec (f : DecState → DecState) (s : State) : State :=
  { s with dec := f s.dec }

/-- The state with ENC changed. -/
def State.onEnc (f : EncState → EncState) (s : State) : State :=
  { s with enc := f s.enc }

end Sys2Proof.Machine
end

