-- ==== Sys2Proof/Machine/Dec.lean ====
section
/-! DEFINITION. The meanings of the instructions: what DEC does with a field it has read (42_decoder.md R114 to R119). Reading
the field, with the stops of R112, R116 and R117, is the decoder's part and `decTurn`'s. -/

namespace Sys2Proof.Machine

/-- LIT (R117): write the literal byte, whatever its value. -/
def execLit (literal : Byte) (s : State) : Host.Outcome State Fault Refusal :=
  .next (s.onDec (decEmit literal))

/-- MODP (R116): write option `sel` of `ODR(dec_p1)`, or stop with `UNDEF_REF` when `dec_p1 = ⊥`. -/
def execModp (sel : BitVec 2) (s : State) : Host.Outcome State Fault Refusal :=
  .next (s.onDec (decEmitOrStop (optionOperand sel s.dec)))

/-- REP2 (R114): write `dec_p0`, or stop with `UNDEF_REF` when `dec_p0 = ⊥`. -/
def execRep2 (s : State) : Host.Outcome State Fault Refusal :=
  .next (s.onDec (decEmitOrStop (secondLastOperand s.dec)))

/-- REP1 (R115): write `dec_p1`, or stop with `UNDEF_REF` when `dec_p1 = ⊥`. -/
def execRep1 (s : State) : Host.Outcome State Fault Refusal :=
  .next (s.onDec (decEmitOrStop (lastOperand s.dec)))

/-- SENT (R119): stop with `SENTINEL`. -/
def execSent (s : State) : Host.Outcome State Fault Refusal :=
  .next (s.onDec (decStop .sentinel))

end Sys2Proof.Machine
end

