-- ==== Sys2Proof/Machine/Dispatch.lean ====
section
/-! DEFINITION. One arm per instruction, each one call of its meaning. -/

namespace Sys2Proof.Machine

def exec (i : Instr) (s : State) : Host.Outcome State Fault Refusal :=
  match i with
  | .lit literal => Sys2Proof.Machine.execLit literal s
  | .modp sel => Sys2Proof.Machine.execModp sel s
  | .rep2 => Sys2Proof.Machine.execRep2 s
  | .rep1 => Sys2Proof.Machine.execRep1 s
  | .sent => Sys2Proof.Machine.execSent s

end Sys2Proof.Machine
end

