-- ==== Sys2Proof/Machine/Enc.lean ====
section
/-! DEFINITION. The encoder ENC (41_encoder.md): which instruction it writes for a byte (R88 to R92), the pass (R88, R93 to
R97), the end of input (R98 to R100) and its step (R87, R101). -/

namespace Sys2Proof.Machine

/-- The op-code choice of R88, in its order: REP1 (R89), REP2 (R90), MODP with the lowest index (R91), else LIT (R92). -/
def encChoose (p0 p1 : OptByte) (b : Byte) : Instr :=
  if p1.eqByte b then .rep1
  else if p0.eqByte b then .rep2
  else
    match lowestIndex b (odr p1) with
    | some i => .modp i
    | none => .lit b

/-- Append the slots of a field, one after the other (R17, R88). -/
def encAppendAll (slots : List Slot) (e : EncState) : EncState :=
  slots.foldl (fun e v => encAppend v e) e

/-- Put the literal bytes of a field into the pending-literal buffer (R93). -/
def encPushAll (literals : List Byte) (e : EncState) : EncState :=
  literals.foldl (fun e b => encPushLiteral b e) e

/-- Append the encoding of the instruction ENC has chosen: its slots to the accumulator, its literal to the buffer. -/
def encRecord (i : Instr) (e : EncState) : EncState :=
  encPushAll (encode i).2 (encAppendAll (encode i).1 e)

/-- `EncPass(b)` of R88: choose and append, update the history (R94), flush a full control byte (R95). -/
def encPass (b : Byte) (e : EncState) : EncState :=
  encFlushFull (encHistory b (encRecord (encChoose e.p0 e.p1 b) e))

/-- The pad passes of R98, at most `fuel`: while the accumulator is not empty, one pass over 0x00. -/
def encPad : Nat → EncState → EncState
  | 0, e => e
  | fuel + 1, e => if e.accn = 0#4 then e else encPad fuel (encPass Config.padByte e)

/-- How many pad passes R98 runs (R103), at most `fuel`. -/
def encPadCount : Nat → EncState → Nat
  | 0, _ => 0
  | fuel + 1, e => if e.accn = 0#4 then 0 else encPadCount fuel (encPass Config.padByte e) + 1

/-- `enc_phase <- DONE`, once the sentinel has been written (R20, R100): at once, or when the last waiting byte moves. -/
def encClose (e : EncState) : EncState :=
  if e.outq.isEmpty then { e with phase := .done } else { e with closing := true }

/-- `EncEnd()` of R98: the pad passes, at most `PAD_MAX` (R6, R103), then the sentinel (R99), then `DONE` (R100). -/
def encEnd (e : EncState) : EncState :=
  encClose (encOutWrite [Config.sentinel] (encPad Config.padMax e))

/-- What ENC does with the token it has taken (R87). -/
def encTake (t : EncToken) (e : EncState) : EncState :=
  match t with
  | .byte b => encPass b e
  | .endTok => encEnd e

/-- The output `in_ready` of ENC: in `RUN`, with every byte of the previous step written, not while `rst = 1` (R39, R101,
R102, R151). -/
def encInReady (e : EncState) : Bool :=
  !e.rst && e.phase == .run && e.outq.isEmpty

/-- The output `out_valid` of ENC (R39, R151). -/
def encOutValid (e : EncState) : Bool :=
  !e.rst && !e.outq.isEmpty

/-- The next step of ENC: reset while `rst = 1` (R151); first the bytes that wait at the output port, when the host is ready
(R39, R102); then the next token, if one is offered (R87, R101, R145). Register values that I12 calls unreachable are
refused. -/
def encTurn (s : State) : Host.Outcome State Fault Refusal :=
  if s.enc.rst then .next (s.onEnc encReset)
  else if encOutValid s.enc then
    if s.enc.outReady then .next (s.onEnc fun e => encMove e.outq.length e) else .next s
  else if encInReady s.enc then
    match s.enc.inp with
    | [] => .next s
    | t :: rest =>
      if encLegal s.enc then .next (s.onEnc fun e => encTake t { e with inp := rest })
      else .refused .unreachableEnc
  else .next s

end Sys2Proof.Machine
end

