-- ==== Sys2Proof/Machine/Ports.lean ====
section
/-! DEFINITION. The ports of ENC and DEC as the host sees them between two steps (R29, R38, R39, R151). The tokens on the
input ports are the heads of the streams of offered tokens; the byte on an output port is the first one that waits there
(log 1). -/

namespace Sys2Proof.Machine

/-- The pins of ENC between steps (R38), less the clock. -/
structure EncPorts where
  /-- `rst`. -/
  rst : Bool
  /-- `in_valid`: a token is offered. -/
  inValid : Bool
  /-- `in_end` and `in_data`, which mean something only while a token is offered. -/
  token : Option EncToken
  /-- `in_ready`. -/
  inReady : Bool
  /-- `out_valid`. -/
  outValid : Bool
  /-- `out_ready`. -/
  outReady : Bool
  /-- `out_data`, which means something only while `out_valid` is 1. -/
  outData : Option Byte
  /-- `enc_done`. -/
  done : Bool
  /-- `enc_collision`. -/
  collision : Bool
  deriving DecidableEq, Repr

/-- The pins of DEC between steps (R38), less the clock. -/
structure DecPorts where
  /-- `rst`. -/
  rst : Bool
  /-- `in_valid`: a token is offered. -/
  inValid : Bool
  /-- `in_eof` and `in_data`, which mean something only while a token is offered. -/
  token : Option DecToken
  /-- `in_ready`. -/
  inReady : Bool
  /-- `out_valid`. -/
  outValid : Bool
  /-- `out_ready`. -/
  outReady : Bool
  /-- `out_data`, which means something only while `out_valid` is 1. -/
  outData : Option Byte
  /-- `dec_done`. -/
  done : Bool
  /-- `dec_status`. -/
  status : BitVec 3
  deriving DecidableEq, Repr

/-- `in_ready` of DEC: in `RUN`, its step needs a token, the byte of the previous step is written, and not while
`rst = 1` (R39, R121, R151). -/
def decInReady (d : DecState) : Bool :=
  !d.rst && d.phase == .run && d.outq.isEmpty && needsToken (decCursor d)

/-- The output `out_valid` of DEC (R39, R151). -/
def decOutValid (d : DecState) : Bool :=
  !d.rst && !d.outq.isEmpty

/-- The ports of ENC. -/
def encPorts (s : State) : EncPorts :=
  { rst := s.enc.rst, inValid := !s.enc.inp.isEmpty, token := s.enc.inp.head?, inReady := encInReady s.enc,
    outValid := encOutValid s.enc, outReady := s.enc.outReady, outData := s.enc.outq.head?, done := encDone s, collision := encCollision s }

/-- The ports of DEC. -/
def decPorts (s : State) : DecPorts :=
  { rst := s.dec.rst, inValid := !s.dec.inp.isEmpty, token := s.dec.inp.head?, inReady := decInReady s.dec,
    outValid := decOutValid s.dec, outReady := s.dec.outReady, outData := s.dec.outq.head?, done := decDone s, status := decStatusCode s }

end Sys2Proof.Machine
end

