-- ==== Sys2Proof/Machine/Turns.lean ====
section
/-! DEFINITION. The next step of DEC (R111), the host's actions (R37, R38, R155; log 3), and one step of the whole
machine (R48; log 4). -/

namespace Sys2Proof.Machine

/-- What DEC does with the decoder's answer (R111, R112, R116 to R118, R120): run the field it read, stop with the status of
the end it met, or wait for the token it needs (log 5). -/
def decRun (answer : Decoded) (s : State) : Host.Outcome State Fault Refusal :=
  match answer with
  | .instr i after => exec i (s.onDec (decMoveTo after))
  | .ends why after => .next (s.onDec fun d => decStop (endStatus why) (decMoveTo after d))
  | .starved waiting => .next (s.onDec (decMoveTo waiting))

/-- The next step of DEC: reset while `rst = 1` (R151); first the byte that waits at the output port, when the host is ready
(R39); nothing in `DONE` (R25, R121); else `DecStep()` of R111. Values of `dec_rem` that I12 calls unreachable are
refused. -/
def decTurn (s : State) : Host.Outcome State Fault Refusal :=
  if s.dec.rst then .next (s.onDec decReset)
  else if decOutValid s.dec then
    if s.dec.outReady then .next (s.onDec fun d => decMove d.outq.length d) else .next s
  else
    match s.dec.phase with
    | .done => .next s
    | .run =>
      if decLegal s.dec then decRun (decode (decCursor s.dec)) s
      else .refused .unreachableDec

/-- Both blocks make their next step. They share nothing, so the order does not matter (R48). -/
def bothTurns (s : State) : Host.Outcome State Fault Refusal :=
  match encTurn s with
  | .next t => decTurn t
  | .fault r => .fault r
  | .refused r => .refused r

/-- One action of the host (log 3). Tokens are dropped only during reset: otherwise the sender holds what it offers until it
is taken (R39). A waiting byte moves only while `out_valid` is 1. -/
def hostAct (a : HostAction) (s : State) : Host.Outcome State Fault Refusal :=
  match a with
  | .offerEnc t => .next (s.onEnc fun e => { e with inp := e.inp ++ [t] })
  | .offerDec t => .next (s.onDec fun d => { d with inp := d.inp ++ [t] })
  | .driveEncRst level => .next (s.onEnc fun e => { e with rst := level })
  | .driveDecRst level => .next (s.onDec fun d => { d with rst := level })
  | .driveEncReady level => .next (s.onEnc fun e => { e with outReady := level })
  | .driveDecReady level => .next (s.onDec fun d => { d with outReady := level })
  | .takeEnc => .next (s.onEnc fun e => if encOutValid e then encMove 1 e else e)
  | .takeDec => .next (s.onDec fun d => if decOutValid d then decMove 1 d else d)
  | .dropEnc => .next (s.onEnc fun e => if e.rst then { e with inp := [] } else e)
  | .dropDec => .next (s.onDec fun d => if d.rst then { d with inp := [] } else d)
  | .letEnc => encTurn s
  | .letDec => decTurn s

/-- One step of CORE: the host's next action, or, when none is pending, the next step of both blocks. -/
def coreStep (s : State) : Host.Outcome State Fault Refusal :=
  match s.host with
  | [] => bothTurns s
  | a :: rest => hostAct a { s with host := rest }

/-- The state in which a table word stands next and the next step of the machine is DEC's: DEC out of reset and in `RUN` with
no byte waiting, the word's slots or control byte before whatever the host has offered, and DEC's step before whatever the host does (log 14, log
15). -/
def placeTableWord (s : State) (nbits w : Nat) : State :=
  let c := tableCursor nbits w
  { s with
    host := .letDec :: s.host
    dec := { s.dec with
      ctrl := if c.rem = 0#4 then s.dec.ctrl else c.ctrl
      rem := c.rem
      phase := .run
      status := .none
      inp := c.inp ++ s.dec.inp
      outq := []
      rst := false } }

end Sys2Proof.Machine
end

