-- ==== Sys2Proof/Machine/Step.lean ====
section
/-! DEFINITION. One step of the machine, and the state in which a given instruction word is the next one. -/

namespace Sys2Proof.Machine

/-- One step of CORE (R13, R48): see `coreStep`. -/
def step (s : State) : Host.Outcome State Fault Refusal :=
  coreStep s

/-- `s` with a word of spec/opcode_table.json as DEC's next field and DEC's step next: see `placeTableWord`. -/
def State.withFetchWord (s : State) (nbits w : Nat) : State :=
  placeTableWord s nbits w

end Sys2Proof.Machine
end

