-- ==== Sys2Proof/Machine/Codec.lean ====
section
/-! DEFINITION. The two observable functions of R12 as runs of the machine from reset, and what a listing of fields
means (R58), which those runs are compared with. -/

namespace Sys2Proof.Machine

/-- `k` steps of the machine. -/
def run (k : Nat) (s : State) : Host.Outcome State Fault Refusal :=
  Host.Core.run Sys2Proof.core k s

/-- A raw sequence as the host gives it to ENC: its bytes, then `END` (R37). -/
def encTokens (raw : List Byte) : List EncToken :=
  raw.map EncToken.byte ++ [EncToken.endTok]

/-- The machine right after reset with a raw sequence offered to ENC (R12, R153). -/
def encodeStart (raw : List Byte) : State :=
  State.reset.onEnc fun e => { e with inp := encTokens raw }

/-- `encode` of R12 as a run: ENC takes one token a step (R87). -/
def encodeRun (raw : List Byte) : Host.Outcome State Fault Refusal :=
  run (raw.length + 1) (encodeStart raw)

/-- The machine right after reset with an encoded sequence offered to DEC (R12, R153). -/
def decodeStart (bytes : List Byte) : State :=
  State.reset.onDec fun d => { d with inp := decTokens bytes }

/-- Enough DEC steps for a stream: four output bytes for each of its tokens, and the stop (R163). -/
def decodeSteps (bytes : List Byte) : Nat :=
  4 * (bytes.length + 1) + 1

/-- `decode` of R12 as a run. -/
def decodeRun (bytes : List Byte) : Host.Outcome State Fault Refusal :=
  run (decodeSteps bytes) (decodeStart bytes)

/-- ENC after the bytes of a raw sequence and before `END`, from reset (R12). -/
def encAfterBytes (raw : List Byte) : EncState :=
  raw.foldl (fun e b => encPass b e) EncState.reset

/-- How many pad passes ENC runs for a raw sequence (R98, R103, R106). -/
def padCountOf (raw : List Byte) : Nat :=
  encPadCount Config.padMax (encAfterBytes raw)

/-- A raw sequence with its pad bytes: what ENC makes passes over (R98). -/
def padded (raw : List Byte) : List Byte :=
  raw ++ List.replicate (padCountOf raw) Config.padByte

/-- The instructions ENC chooses for these bytes, one a byte, with the history it has (R88, R94). -/
def fieldsFrom (p0 p1 : OptByte) : List Byte → List Instr
  | [] => []
  | b :: rest => encChoose p0 p1 b :: fieldsFrom p1 (.ofByte b) rest

/-- The bytes the fields of a listing stand for, with the history DEC has; up to SENT, or to a reference that is undefined
(R58, R114 to R119). -/
def bytesFrom (p0 p1 : OptByte) : List Instr → List Byte
  | [] => []
  | .lit b :: rest => b :: bytesFrom p1 (.ofByte b) rest
  | .modp sel :: rest =>
    match (odr p1)[sel.toNat]? with
    | some v => v :: bytesFrom p1 (.ofByte v) rest
    | none => []
  | .rep2 :: rest =>
    match p0.toOption with
    | some v => v :: bytesFrom p1 (.ofByte v) rest
    | none => []
  | .rep1 :: rest =>
    match p1.toOption with
    | some v => v :: bytesFrom p1 (.ofByte v) rest
    | none => []
  | .sent :: _ => []

/-- The slots of the control bytes that stand before the first collision, of four slots each; all of them when there is none
(R62, R123). -/
def slotsBeforeCollision : List Slot → List Slot
  | s0 :: s1 :: s2 :: s3 :: rest =>
    if packByte s0 s1 s2 s3 = Config.sentinel then [] else s0 :: s1 :: s2 :: s3 :: slotsBeforeCollision rest
  | short => short

/-- The fields that stand whole in the first `n` slots, up to the first that does not. -/
def fieldsWithin : Nat → List Instr → List Instr
  | _, [] => []
  | n, i :: rest => if i.slotCount ≤ n then i :: fieldsWithin (n - i.slotCount) rest else []

/-- The fields that stand before the first collision (R123): every slot of theirs is in a control byte before it, so that a MODP
whose selector the collision holds is none of them. -/
def fieldsBeforeCollision (fields : List Instr) : List Instr :=
  fieldsWithin (slotsBeforeCollision (fields.flatMap slotsOf)).length fields

end Sys2Proof.Machine
end

