-- ==== Sys2Proof/Safety.lean ====
section
/-! DEFINITION. What a good state and a good run are: the registers at rest as the spec says they are (R15, R18, R19,
R22, R24, R25, R34), a step that completes, and a decode that ends at the sentinel. -/

namespace Sys2Proof.Safety

open Sys2Proof.Machine

/-- The valid bits of the accumulator as slots, oldest first (R17, R18). -/
def accSlots (e : EncState) : List Slot :=
  ((List.range (e.accn.toNat / 2)).reverse).map fun k => e.acc.extractLsb' (2 * k) 2

/-- How many LIT op-codes a row of slots holds, when it begins with an op-code and holds whole fields only (R57, R58). -/
def litCount : List Slot → Option Nat
  | [] => some 0
  | s :: rest =>
    match OpCode.ofSlot s with
    | .literal => (litCount rest).map (· + 1)
    | .modifyPrev =>
      match rest with
      | [] => none
      | _ :: rest' => litCount rest'
    | .repeatSecondLast => litCount rest
    | .repeatLast => litCount rest

/-- R19: `enc_litn` is the number of LIT op-codes in `enc_acc`, whose first slot may be the selector of a MODP that has
been flushed. -/
def litnCountsLits (e : EncState) : Bool :=
  litCount (accSlots e) == some e.litn.toNat ||
    (e.accn != 0#4 && litCount (accSlots e).tail == some e.litn.toNat)

/-- ENC at rest: an even count of at most 6 valid bits and no bit above them (R15, R18), R19, the history order (R34), and
nothing pending before the first byte or after the end (R31, R98), and `DONE` only with every byte written (R20). -/
def encRest (e : EncState) : Bool :=
  encLegal e
    && decide (e.acc.toNat < 2 ^ e.accn.toNat)
    && litnCountsLits e
    && (!e.p0.isDef || e.p1.isDef)
    && (e.p1.isDef || e.accn == 0#4)
    && ((e.phase == .run && !e.closing) || e.accn == 0#4)
    && (!e.closing || (e.phase == .run && !e.outq.isEmpty))
    && (e.phase == .run || e.outq.isEmpty)

/-- DEC between steps: `dec_rem` is even and at most 8, and 8 only while DEC waits for the literal of slot 0 (R22, R24; log
5); no loaded control byte is the sentinel (R112); the history order and its timing (R34); the status is `NONE` exactly
in `RUN` (R25, R134); at most one byte waits, and none in `DONE` (R53, R120). -/
def decRest (d : DecState) : Bool :=
  decLegal d
    && (d.rem != 8#4 || (d.phase == .run && OpCode.ofSlot (slotAt d.ctrl d.rem) == .literal))
    && (d.rem == 0#4 || d.ctrl != Config.sentinel)
    && (!d.p0.isDef || d.p1.isDef)
    && (d.p1.isDef || d.phase == .done || d.rem == 0#4 || d.rem == 8#4)
    && ((d.status == .none) == (d.phase == .run))
    && decide (d.outq.length ≤ 1)
    && (d.phase == .run || d.outq.isEmpty)

/-- Both blocks at rest. -/
def atRest (s : State) : Bool := encRest s.enc && decRest s.dec

/-- A step answers a next state: it neither faults nor refuses. -/
def Completes (s : State) : Prop := ∃ t, step s = .next t

/-- The step from `s` to `t` writes the byte `v` and updates the history (R118), and changes nothing else: not ENC, not the
host's list, not the rest of DEC. The byte moves at once when the host is ready and none waits (R39). -/
def WritesByte (v : Byte) (s t : State) : Prop :=
  decWritten t.dec = decWritten s.dec ++ [v]
    ∧ (s.dec.outReady = true → s.dec.outq = [] → t.dec.out = s.dec.out ++ [v] ∧ t.dec.outq = [])
    ∧ t.dec.p0 = s.dec.p1 ∧ t.dec.p1 = .ofByte v
    ∧ t.dec.ctrl = s.dec.ctrl ∧ t.dec.rem = s.dec.rem ∧ t.dec.inp = s.dec.inp
    ∧ t.dec.phase = s.dec.phase ∧ t.dec.status = s.dec.status
    ∧ t.dec.rst = s.dec.rst ∧ t.dec.outReady = s.dec.outReady
    ∧ t.enc = s.enc ∧ t.host = s.host

/-- The step from `s` to `t` is the stop with this status: `dec_status` and `dec_phase` are written, and everything else,
history, control byte, streams, ENC, is as it was (R120, R136). -/
def StopsWith (why : DecStatus) (s t : State) : Prop :=
  t = { s with dec := { s.dec with status := why, phase := .done } }

/-- DEC may make a step of its own: out of reset, in `RUN`, no byte waiting, and a count that is not unreachable (R25, R39,
R111, I12). -/
def decMayStep (s : State) : Bool :=
  !s.dec.rst && s.dec.phase == .run && s.dec.outq.isEmpty && decLegal s.dec

/-- DEC has ended its run at the sentinel (R119, R124). -/
def endedAtSentinel (s : State) : Bool :=
  s.dec.phase == .done && s.dec.status == .sentinel

end Sys2Proof.Safety
end

