-- ==== Sys2Proof/Certificates/Slice0/Obligations.lean ====
section
/-! DEFINITION. The statements about this machine that are to be proved. Each docstring names the rules or sections of spec/
it formalises; OBLIGATIONS.json lists them. -/

open Sys2Proof Sys2Proof.Machine Sys2Proof.Safety

/-! ### Reset and the pins -/

/-- R32: after reset every register holds the value of the reset columns of R15 and R22, and DEC's first step takes the first token of
its stream as a control byte: it loads a byte, and stops at the sentinel or at the end of the stream. -/
def Obligations.ResetRegistersHoldTheirResetValues : Prop :=
  State.reset.enc.p0.isDef = false ∧ State.reset.enc.p1.isDef = false
    ∧ State.reset.enc.acc = 0#10 ∧ State.reset.enc.accn = 0#4
    ∧ State.reset.enc.lit = #v[0#8, 0#8, 0#8, 0#8] ∧ State.reset.enc.litn = 0#3
    ∧ State.reset.enc.phase = .run ∧ State.reset.enc.coll = false
    ∧ State.reset.dec.p0.isDef = false ∧ State.reset.dec.p1.isDef = false
    ∧ State.reset.dec.ctrl = 0#8 ∧ State.reset.dec.rem = 0#4
    ∧ State.reset.dec.phase = .run ∧ State.reset.dec.status = .none
    ∧ ∀ (c : Byte) (rest : List DecToken),
      (c ≠ 0x01#8 →
        ∃ t, step { State.reset with dec := { State.reset.dec with inp := .byte c :: rest } } = .next t
          ∧ t.dec.ctrl = c
          ∧ decode (decCursor { State.reset.dec with inp := .byte c :: rest })
              = decode { ctrl := c, rem := 8#4, inp := rest })
      ∧ (∃ t, step { State.reset with dec := { State.reset.dec with inp := .byte 0x01#8 :: rest } } = .next t
          ∧ t.dec.status = .sentinel ∧ t.dec.inp = rest)
      ∧ (∃ t, step { State.reset with dec := { State.reset.dec with inp := .eof :: rest } } = .next t
          ∧ t.dec.status = .eofCtrl ∧ t.dec.inp = rest)

/-- 70_reset_and_hazards.md section 1 (R151, R152) with the model's reading of it, log 9 and log 1: with its `rst` at 1 a block, in
whatever state it is, is not ready and offers no byte, and at its next step every register of it takes its reset value; the bytes
that have moved stay with the host, and the other block is untouched. That the tokens offered stay offered and that the bytes that
wait in the model's own `outq` are dropped is log 9. -/
def Obligations.RstTakesABlockToItsResetValues : Prop :=
  ∀ s : State,
    (s.enc.rst = true →
      encInReady s.enc = false ∧ encOutValid s.enc = false
        ∧ ∃ t, step { s with host := .letEnc :: s.host } = .next t
          ∧ t.enc.p0.isDef = false ∧ t.enc.p1.isDef = false ∧ t.enc.acc = 0#10 ∧ t.enc.accn = 0#4
          ∧ t.enc.lit = #v[0#8, 0#8, 0#8, 0#8] ∧ t.enc.litn = 0#3 ∧ t.enc.phase = .run ∧ t.enc.coll = false
          ∧ t.enc.inp = s.enc.inp ∧ t.enc.out = s.enc.out ∧ encWritten t.enc = s.enc.out ∧ encOutValid t.enc = false
          ∧ t.dec = s.dec ∧ t.host = s.host)
    ∧ (s.dec.rst = true →
      decInReady s.dec = false ∧ decOutValid s.dec = false
        ∧ ∃ t, step { s with host := .letDec :: s.host } = .next t
          ∧ t.dec.p0.isDef = false ∧ t.dec.p1.isDef = false ∧ t.dec.ctrl = 0#8 ∧ t.dec.rem = 0#4
          ∧ t.dec.phase = .run ∧ t.dec.status = .none
          ∧ t.dec.inp = s.dec.inp ∧ t.dec.out = s.dec.out ∧ decWritten t.dec = s.dec.out ∧ decOutValid t.dec = false
          ∧ t.enc = s.enc ∧ t.host = s.host)

/-- R137, R101: only reset takes a block out of `DONE`. While its `rst` is 0, whatever step the machine makes leaves a block that is in
`DONE` there, not ready, with its status, its history and every byte it has written as they are, and takes none of its tokens: they
stay offered, with what the host offers after them. -/
def Obligations.OnlyResetLeavesDone : Prop :=
  ∀ s t : State, step s = .next t →
    (s.enc.phase = .done → s.enc.rst = false →
      t.enc.phase = .done ∧ t.enc.p0 = s.enc.p0 ∧ t.enc.p1 = s.enc.p1 ∧ t.enc.coll = s.enc.coll
        ∧ encWritten t.enc = encWritten s.enc ∧ s.enc.inp <+: t.enc.inp
        ∧ encInReady s.enc = false)
    ∧ (s.dec.phase = .done → s.dec.rst = false →
      t.dec.phase = .done ∧ t.dec.status = s.dec.status ∧ t.dec.p0 = s.dec.p0 ∧ t.dec.p1 = s.dec.p1
        ∧ t.dec.ctrl = s.dec.ctrl ∧ t.dec.rem = s.dec.rem
        ∧ decWritten t.dec = decWritten s.dec ∧ s.dec.inp <+: t.dec.inp
        ∧ decInReady s.dec = false)

/-- 20_memory.md section 1, for ENC and DEC at their own steps, with the waiting bytes of log 1: a block is ready exactly when it is out of
reset, in `RUN`, with no byte of its previous step waiting, and, for DEC, at a field that needs a token. With `in_ready` at 0 a block
takes no token. ENC takes exactly one when it is ready and one is offered. DEC, when it is ready, takes one or two of those offered,
and waits with its history, its status and its output as they are when none is. -/
def Obligations.TokensMoveOnlyWhileReady : Prop :=
  (∀ e : EncState, encInReady e = true ↔ e.rst = false ∧ e.phase = .run ∧ e.outq = [])
  ∧ (∀ d : DecState, decInReady d = true ↔
      d.rst = false ∧ d.phase = .run ∧ d.outq = []
        ∧ (d.rem = 0#4 ∨ slotAt d.ctrl d.rem = 0b00#2 ∨ (slotAt d.ctrl d.rem = 0b01#2 ∧ d.rem = 2#4)))
  ∧ (∀ s t : State, encTurn s = .next t →
    (encInReady s.enc = false → t.enc.inp = s.enc.inp)
      ∧ (encInReady s.enc = true → t.enc.inp = s.enc.inp.tail)
      ∧ (encInReady s.enc = true → s.enc.inp = [] → t = s))
  ∧ ∀ s t : State, decTurn s = .next t →
    (decInReady s.dec = false → t.dec.inp = s.dec.inp)
      ∧ (decInReady s.dec = true → s.dec.inp ≠ [] →
          ∃ k, (k = 1 ∨ k = 2) ∧ k ≤ s.dec.inp.length ∧ t.dec.inp = s.dec.inp.drop k)
      ∧ (decInReady s.dec = true → s.dec.inp = [] → t = s)

/-- 20_memory.md section 1 and 41_encoder.md section 4, with the model's output port, log 1: while a byte of a block's previous step waits,
the block is not ready. At its own step, out of reset, all its waiting bytes move, in their order, when the host is ready, and nothing
changes when it is not. The host's action takes exactly the first waiting byte. No register but ENC's phase changes: ENC is in `DONE`
once the last byte of its end of input has moved, and not before. -/
def Obligations.WaitingBytesMoveInOrderBeforeTheNextToken : Prop :=
  (∀ s : State, s.enc.rst = false → s.enc.outq ≠ [] →
    encInReady s.enc = false ∧ encOutValid s.enc = true
      ∧ (s.enc.outReady = false → encTurn s = .next s)
      ∧ (s.enc.outReady = true → encTurn s = .next { s with enc := { s.enc with
            out := s.enc.out ++ s.enc.outq, outq := [], closing := false,
            phase := if s.enc.closing = true then .done else s.enc.phase } })
      ∧ ∀ (b : Byte) (more : List Byte), s.enc.outq = b :: more →
        step { s with host := .takeEnc :: s.host } = .next { s with enc := { s.enc with
          out := s.enc.out ++ [b], outq := more
          closing := if more = [] then false else s.enc.closing
          phase := if s.enc.closing = true ∧ more = [] then .done else s.enc.phase } })
  ∧ ∀ s : State, s.dec.rst = false → s.dec.outq ≠ [] →
    decInReady s.dec = false ∧ decOutValid s.dec = true
      ∧ (s.dec.outReady = false → decTurn s = .next s)
      ∧ (s.dec.outReady = true →
          decTurn s = .next { s with dec := { s.dec with out := s.dec.out ++ s.dec.outq, outq := [] } })
      ∧ ∀ (b : Byte) (more : List Byte), s.dec.outq = b :: more →
        step { s with host := .takeDec :: s.host } =
          .next { s with dec := { s.dec with out := s.dec.out ++ [b], outq := more } }

/-- 70_reset_and_hazards.md section 1 and 20_memory.md section 2: the bytes that have moved to the host stay there, whatever step the machine makes. -/
def Obligations.MovedBytesStayWithTheHost : Prop :=
  ∀ s t : State, step s = .next t → s.enc.out <+: t.enc.out ∧ s.dec.out <+: t.dec.out

/-! ### The step -/

/-- 42_decoder.md section 1, with the model's choices log 4 and log 6: when DEC makes its step and the decoder reads the field `i`, the
step is `exec i` on the state with DEC's cursor moved past the field. That the operands are read by the decoder and `exec` has the
effect that follows is log 6. It is so both when the host lets DEC move alone and when no host action is pending: one step of the
machine is then ENC's step and after it DEC's, which is log 4. -/
def Obligations.StepRunsTheDecodedInstruction : Prop :=
  ∀ (s : State) (i : Instr) (after : Cursor),
    (decMayStep s = true → decode (decCursor s.dec) = .instr i after →
      step { s with host := .letDec :: s.host } =
        exec i { s with dec := { s.dec with ctrl := after.ctrl, rem := after.rem, inp := after.inp } })
    ∧ ∀ t : State, s.host = [] → encTurn s = .next t →
      decMayStep t = true → decode (decCursor t.dec) = .instr i after →
        step s = exec i { t with dec := { t.dec with ctrl := after.ctrl, rem := after.rem, inp := after.inp } }

/-- The model's choice (log 14, log 15): a word of the opcode table that the decoder reads as `i`, placed as the next one, is run by
the very next step as `exec i`, with ENC, the history, the output and the tokens already offered as they were. -/
def Obligations.PlacedTableWordRunsNext : Prop :=
  ∀ (s : State) (w : Nat) (i : Instr), decodeTableWord 8 w = some i →
    ∃ after : State, step (s.withFetchWord 8 w) = exec i after
      ∧ after.enc = s.enc ∧ after.host = s.host ∧ after.dec.p0 = s.dec.p0 ∧ after.dec.p1 = s.dec.p1
      ∧ after.dec.out = s.dec.out ∧ after.dec.inp = s.dec.inp
      ∧ after.dec.phase = .run ∧ after.dec.outq = []

/-- R143: ENC and DEC are independent. What a block's step makes of it depends on that block alone, and leaves the other as it is; and
the two steps commute. -/
def Obligations.EncAndDecShareNothing : Prop :=
  (∀ s t : State, encTurn s = .next t →
    t.dec = s.dec ∧ t.host = s.host
      ∧ ∀ s' : State, s'.enc = s.enc → encTurn s' = .next { s' with enc := t.enc })
  ∧ (∀ s t : State, decTurn s = .next t →
    t.enc = s.enc ∧ t.host = s.host
      ∧ ∀ s' : State, s'.dec = s.dec → decTurn s' = .next { s' with dec := t.dec })
  ∧ ∀ s t u : State, encTurn s = .next t → decTurn s = .next u →
    decTurn t = .next { t with dec := u.dec } ∧ encTurn u = .next { t with dec := u.dec }

/-- The model's reading (log 5) of 20_memory.md section 3: a DEC step that waits for a token resumes as if all its tokens had been offered at once, and a
field that has been read whole does not depend on what is offered after it. -/
def Obligations.WaitingForATokenChangesNothing : Prop :=
  ∀ (c : Cursor) (more : List DecToken),
    (∀ w, decode c = .starved w →
      w.inp = [] ∧ decode { c with inp := c.inp ++ more } = decode { w with inp := more })
    ∧ (∀ i after, decode c = .instr i after →
        decode { c with inp := c.inp ++ more } = .instr i { after with inp := after.inp ++ more })
    ∧ (∀ why after, decode c = .ends why after →
        decode { c with inp := c.inp ++ more } = .ends why { after with inp := after.inp ++ more })

/-! ### The instructions of DEC -/

/-- 42_decoder.md section 2 (LIT): in `RUN`, LIT writes its literal byte, whatever it is. -/
def Obligations.LitWritesItsLiteral : Prop :=
  ∀ (literal : Byte) (s : State), s.dec.phase = .run →
    ∃ t, exec (.lit literal) s = .next t ∧ WritesByte literal s t

/-- 42_decoder.md section 2 (MODP) with the option formulas of 40_option_deriver.md section 2: in `RUN`, with `dec_p1` defined, MODP
writes the option its selector selects. -/
def Obligations.ModpWritesTheSelectedOption : Prop :=
  ∀ (sel : BitVec 2) (s : State), s.dec.phase = .run → s.dec.p1.isDef = true →
    ∃ t, exec (.modp sel) s = .next t
      ∧ WritesByte
          (if sel = 0#2 then s.dec.p1.val ||| (s.dec.p1.val <<< 1)
           else if sel = 1#2 then s.dec.p1.val &&& (s.dec.p1.val <<< 1)
           else if sel = 2#2 then s.dec.p1.val ||| (s.dec.p1.val >>> 1)
           else s.dec.p1.val &&& (s.dec.p1.val >>> 1)) s t

/-- 42_decoder.md section 2 (REP2): in `RUN`, REP2 writes `dec_p0` when it is defined. -/
def Obligations.Rep2WritesTheSecondLastByte : Prop :=
  ∀ s : State, s.dec.phase = .run → s.dec.p0.isDef = true →
    ∃ t, exec .rep2 s = .next t ∧ WritesByte s.dec.p0.val s t

/-- 42_decoder.md section 2 (REP1): in `RUN`, REP1 writes `dec_p1` when it is defined. -/
def Obligations.Rep1WritesTheLastByte : Prop :=
  ∀ s : State, s.dec.phase = .run → s.dec.p1.isDef = true →
    ∃ t, exec .rep1 s = .next t ∧ WritesByte s.dec.p1.val s t

/-- 42_decoder.md section 2 (SENT): in `RUN`, SENT stops DEC with `SENTINEL`; this is the normal end of a stream, and `dec_done` reads 1
and `dec_status` reads 1 then. -/
def Obligations.SentStopsWithSentinel : Prop :=
  ∀ s : State, s.dec.phase = .run →
    ∃ t, exec .sent s = .next t ∧ StopsWith .sentinel s t ∧ decDone t = true ∧ decStatusCode t = 1#3

/-- 42_decoder.md section 2 and 92_eei_decisions.md D4: in `RUN`, a reference to an undefined history entry stops DEC with `UNDEF_REF`, code
5, and writes no byte. -/
def Obligations.UndefinedReferenceStops : Prop :=
  ∀ s : State, s.dec.phase = .run →
    (s.dec.p0.isDef = false →
      ∃ t, exec .rep2 s = .next t ∧ StopsWith .undefRef s t ∧ decStatusCode t = 5#3)
    ∧ (s.dec.p1.isDef = false →
      ∃ t, exec .rep1 s = .next t ∧ StopsWith .undefRef s t ∧ decStatusCode t = 5#3)
    ∧ (s.dec.p1.isDef = false → ∀ sel : BitVec 2,
      ∃ t, exec (.modp sel) s = .next t ∧ StopsWith .undefRef s t ∧ decStatusCode t = 5#3)

/-- 10_state.md sections 3 and 4, with the model's choice log 11 for `DONE`: what every instruction leaves unchanged. ENC, the host's list, the control byte, the slot count, the
input stream and the pins are as they were; at most one byte is written, and the history moves exactly with it; the status and
the phase change only together, when no byte is written. That `exec` changes nothing in `DONE`, where the step runs no instruction, is log 11. -/
def Obligations.InstructionFrame : Prop :=
  ∀ (i : Instr) (s t : State), exec i s = .next t →
    t.enc = s.enc ∧ t.host = s.host
      ∧ t.dec.ctrl = s.dec.ctrl ∧ t.dec.rem = s.dec.rem ∧ t.dec.inp = s.dec.inp
      ∧ t.dec.rst = s.dec.rst ∧ t.dec.outReady = s.dec.outReady
      ∧ (s.dec.phase = .done → t = s)
      ∧ ((∃ v, decWritten t.dec = decWritten s.dec ++ [v] ∧ t.dec.p0 = s.dec.p1 ∧ t.dec.p1 = .ofByte v
            ∧ t.dec.phase = s.dec.phase ∧ t.dec.status = s.dec.status)
          ∨ (t.dec.out = s.dec.out ∧ t.dec.outq = s.dec.outq ∧ t.dec.p0 = s.dec.p0 ∧ t.dec.p1 = s.dec.p1
            ∧ t.dec.phase = .done))

/-- R112 and R122: the fetch of a control byte, at a slot boundary and for the selector of a MODP in slot 3. `EOF` stops DEC with the status
of the place; 0x01 stops it with `SENTINEL` at both; the token is taken. Any other byte is loaded with 8 unconsumed bits and the
step goes on with it. -/
def Obligations.ControlByteFetch : Prop :=
  ∀ (s : State) (c : Byte) (rest : List DecToken), decMayStep s = true →
    (s.dec.rem = 0#4 →
      (s.dec.inp = .eof :: rest →
        ∃ t, decTurn s = .next t ∧ StopsWith .eofCtrl { s with dec := { s.dec with inp := rest } } t)
      ∧ (s.dec.inp = .byte 0x01#8 :: rest →
        ∃ t, decTurn s = .next t ∧ StopsWith .sentinel { s with dec := { s.dec with inp := rest } } t)
      ∧ (s.dec.inp = .byte c :: rest → c ≠ 0x01#8 →
        decTurn s = decTurn { s with dec := { s.dec with ctrl := c, rem := 8#4, inp := rest } }))
    ∧ (s.dec.rem = 2#4 → s.dec.ctrl.extractLsb' 0 2 = 0b01#2 →
      (s.dec.inp = .eof :: rest →
        ∃ t, decTurn s = .next t ∧ StopsWith .eofSel { s with dec := { s.dec with rem := 0#4, inp := rest } } t)
      ∧ (s.dec.inp = .byte 0x01#8 :: rest →
        ∃ t, decTurn s = .next t ∧ StopsWith .sentinel { s with dec := { s.dec with rem := 0#4, inp := rest } } t)
      ∧ (s.dec.inp = .byte c :: rest → c ≠ 0x01#8 →
        decTurn s = exec (.modp (c.extractLsb' 6 2)) { s with dec := { s.dec with ctrl := c, rem := 6#4, inp := rest } }))

/-- R113: the slots of a loaded control byte are read in the order 7:6, 5:4, 3:2, 1:0, two bits each; a packed control byte
has its slots there; and `10` and `11` are REP2 and REP1, `01` is MODP with the next slot as its selector while there is one. -/
def Obligations.SlotsAreReadMostSignificantPairFirst : Prop :=
  (∀ c : Byte,
    slotAt c 8#4 = c.extractLsb' 6 2 ∧ slotAt c 6#4 = c.extractLsb' 4 2
    ∧ slotAt c 4#4 = c.extractLsb' 2 2 ∧ slotAt c 2#4 = c.extractLsb' 0 2)
  ∧ (∀ s0 s1 s2 s3 : Slot,
    (packByte s0 s1 s2 s3).extractLsb' 6 2 = s0 ∧ (packByte s0 s1 s2 s3).extractLsb' 4 2 = s1
    ∧ (packByte s0 s1 s2 s3).extractLsb' 2 2 = s2 ∧ (packByte s0 s1 s2 s3).extractLsb' 0 2 = s3)
  ∧ ∀ (ctrl : Byte) (rem : BitVec 4) (inp : List DecToken), rem = 2#4 ∨ rem = 4#4 ∨ rem = 6#4 ∨ rem = 8#4 →
      (slotAt ctrl rem = 0b10#2 →
        decode { ctrl := ctrl, rem := rem, inp := inp } = .instr .rep2 { ctrl := ctrl, rem := rem - 2#4, inp := inp })
      ∧ (slotAt ctrl rem = 0b11#2 →
        decode { ctrl := ctrl, rem := rem, inp := inp } = .instr .rep1 { ctrl := ctrl, rem := rem - 2#4, inp := inp })
      ∧ (slotAt ctrl rem = 0b01#2 → rem ≠ 2#4 →
        decode { ctrl := ctrl, rem := rem, inp := inp }
          = .instr (.modp (slotAt ctrl (rem - 2#4))) { ctrl := ctrl, rem := rem - 4#4, inp := inp })

/-- R117: DEC's step at a LIT slot takes the next token of the stream. `EOF` stops it with `EOF_LIT`; a byte of any value, 0x01 included, is
written as data, at any position. -/
def Obligations.LiteralStep : Prop :=
  ∀ (s : State) (rest : List DecToken) (v : Byte),
    decMayStep s = true → s.dec.rem ≠ 0#4 → slotAt s.dec.ctrl s.dec.rem = 0b00#2 →
      (s.dec.inp = .eof :: rest →
        ∃ t, decTurn s = .next t
          ∧ StopsWith .eofLit { s with dec := { s.dec with rem := s.dec.rem - 2#4, inp := rest } } t)
      ∧ (s.dec.inp = .byte v :: rest →
        ∃ t, decTurn s = .next t
          ∧ WritesByte v { s with dec := { s.dec with rem := s.dec.rem - 2#4, inp := rest } } t)

/-- R120: `stop(s)` writes the status `s` and the phase and nothing else. A DEC step that stops writes no byte and leaves the bytes written
and the history as they were, and raises `dec_done`; a DEC step that does not stop leaves the status. -/
def Obligations.StopsArePrecise : Prop :=
  (∀ (s : State) (why : DecStatus), s.dec.phase = .run → StopsWith why s (s.onDec (decStop why)))
  ∧ ∀ s t : State, s.dec.rst = false → s.dec.phase = .run → decTurn s = .next t →
    (t.dec.phase = .done →
      decDone t = true ∧ t.dec.status ≠ .none
        ∧ t.dec.out = s.dec.out ∧ t.dec.outq = s.dec.outq
        ∧ t.dec.p0 = s.dec.p0 ∧ t.dec.p1 = s.dec.p1)
    ∧ (t.dec.phase = .run → t.dec.status = s.dec.status)

/-- 10_state.md section 5 (R34): from an undefined history, after DEC has written some bytes its last entry is defined from the first
byte on and its second-last from the second byte on, and they hold the last two bytes. The same history update is ENC's. -/
def Obligations.HistoryHoldsTheLastTwoBytes : Prop :=
  ∀ (d : DecState) (bytes : List Byte),
    d.phase = .run → d.p0.isDef = false → d.p1.isDef = false →
      (bytes.foldl (fun d v => decEmit v d) d).p1.toOption = bytes.reverse.head?
      ∧ (bytes.foldl (fun d v => decEmit v d) d).p0.toOption = bytes.reverse.tail.head?
      ∧ decWritten (bytes.foldl (fun d v => decEmit v d) d) = decWritten d ++ bytes
      ∧ ∀ e : EncState, e.p0.isDef = false → e.p1.isDef = false →
        (bytes.foldl (fun e b => encPass b e) e).p1.toOption = bytes.reverse.head?
        ∧ (bytes.foldl (fun e b => encPass b e) e).p0.toOption = bytes.reverse.tail.head?

/-- 10_state.md section 4 and 60_exceptions.md section 1: the status outputs and the codes of `dec_status`; 6 and 7 never occur. -/
def Obligations.StatusOutputsReadTheRegisters : Prop :=
  ∀ s : State,
    (encDone s = true ↔ s.enc.phase = .done) ∧ encCollision s = s.enc.coll ∧ (decDone s = true ↔ s.dec.phase = .done)
    ∧ (s.dec.status = .none ↔ decStatusCode s = 0#3) ∧ (s.dec.status = .sentinel ↔ decStatusCode s = 1#3)
    ∧ (s.dec.status = .eofCtrl ↔ decStatusCode s = 2#3) ∧ (s.dec.status = .eofLit ↔ decStatusCode s = 3#3)
    ∧ (s.dec.status = .eofSel ↔ decStatusCode s = 4#3) ∧ (s.dec.status = .undefRef ↔ decStatusCode s = 5#3)
    ∧ decStatusCode s ≠ 6#3 ∧ decStatusCode s ≠ 7#3
    ∧ encDone State.reset = false ∧ encCollision State.reset = false
    ∧ decDone State.reset = false ∧ decStatusCode State.reset = 0#3

/-! ### The option deriver -/

/-- R76: the list of options, empty for `⊥`; with the four options of 40_option_deriver.md section 2 bit by bit. -/
def Obligations.OptionsOfAByte : Prop :=
  (∀ b : Byte, odr (.ofByte b) = [opt0 b, opt1 b, opt2 b, opt3 b])
  ∧ (∀ x : OptByte, x.isDef = false → odr x = []) ∧ (∀ x : OptByte, odOutDef x = x.isDef)
  ∧ ∀ (b : Byte) (k : Nat), k < 8 →
    (opt0 b).getLsbD k = (b.getLsbD k || (decide (1 ≤ k) && b.getLsbD (k - 1)))
    ∧ (opt1 b).getLsbD k = (b.getLsbD k && (decide (1 ≤ k) && b.getLsbD (k - 1)))
    ∧ (opt2 b).getLsbD k = (b.getLsbD k || b.getLsbD (k + 1))
    ∧ (opt3 b).getLsbD k = (b.getLsbD k && b.getLsbD (k + 1))

/-- 40_option_deriver.md section 3 (R83, derived there by enumeration): how often two options of one byte coincide. -/
def Obligations.CoincidingOptions : Prop :=
  let bytes : List Byte := (List.range 256).map (BitVec.ofNat 8)
  (bytes.filter fun b => opt0 b == opt2 b && opt0 b != b) =
      [0xAB#8, 0xAD#8, 0xAF#8, 0xB5#8, 0xB7#8, 0xBB#8, 0xBD#8, 0xBF#8, 0xD5#8, 0xD7#8, 0xDB#8, 0xDD#8, 0xDF#8,
       0xEB#8, 0xED#8, 0xEF#8, 0xF5#8, 0xF7#8, 0xFB#8, 0xFD#8]
  ∧ (bytes.filter fun b => opt1 b == opt3 b && opt1 b != b).length = 54
  ∧ (bytes.filter fun b => opt0 b == b || opt1 b == b || opt2 b == b || opt3 b == b).length = 16
  ∧ ∀ b ∈ bytes,
    (opt0 b = opt1 b → opt0 b = b) ∧ (opt0 b = opt3 b → opt0 b = b)
    ∧ (opt1 b = opt2 b → opt1 b = b) ∧ (opt2 b = opt3 b → opt2 b = b)

/-! ### ENC -/

/-- 41_encoder.md sections 1 and 2 (R88 to R92): the op-code ENC chooses for a byte, in the order of the pass, with the lowest index among
equal options; comparisons with `⊥` are false. -/
def Obligations.EncoderChoosesInOrder : Prop :=
  ∀ (p0 p1 : OptByte) (b : Byte),
    (p1 = .ofByte b → encChoose p0 p1 b = .rep1)
    ∧ ((p1.isDef = false ∨ p1.val ≠ b) →
      (p0 = .ofByte b → encChoose p0 p1 b = .rep2)
      ∧ ((p0.isDef = false ∨ p0.val ≠ b) →
        (∀ i : Fin 4, p1.isDef = true →
          [opt0 p1.val, opt1 p1.val, opt2 p1.val, opt3 p1.val][i] = b →
          (∀ j : Fin 4, j < i → [opt0 p1.val, opt1 p1.val, opt2 p1.val, opt3 p1.val][j] ≠ b) →
            encChoose p0 p1 b = .modp (BitVec.ofNat 2 i))
        ∧ ((p1.isDef = false ∨
            (opt0 p1.val ≠ b ∧ opt1 p1.val ≠ b ∧ opt2 p1.val ≠ b ∧ opt3 p1.val ≠ b)) →
          encChoose p0 p1 b = .lit b)))

/-- R94, R96 and R97: a pass of ENC, in terms of the slots that wait. The slots of the chosen field join the waiting ones. While there are
fewer than four, nothing is written. With four, the control byte they make is written and then its literals, oldest first; what is
left waits on; a control byte 0x01 sets the collision flag and is written all the same. Every pass updates the history, a pad pass
too. Nothing stops ENC: the phase stays. -/
def Obligations.PassPacksFieldsIntoChunks : Prop :=
  ∀ (e : EncState) (b : Byte), encRest e = true →
    (encPass b e).p0 = e.p1 ∧ (encPass b e).p1 = .ofByte b ∧ (encPass b e).phase = e.phase
    ∧ ((accSlots e ++ slotsOf (encChoose e.p0 e.p1 b)).length < 4 →
        accSlots (encPass b e) = accSlots e ++ slotsOf (encChoose e.p0 e.p1 b)
        ∧ encPending (encPass b e) = encPending e ++ literalsOf (encChoose e.p0 e.p1 b)
        ∧ encWritten (encPass b e) = encWritten e ∧ (encPass b e).coll = e.coll)
    ∧ (∀ (s0 s1 s2 s3 : Slot) (spare : List Slot),
        accSlots e ++ slotsOf (encChoose e.p0 e.p1 b) = s0 :: s1 :: s2 :: s3 :: spare →
          accSlots (encPass b e) = spare ∧ encPending (encPass b e) = []
          ∧ encWritten (encPass b e) = encWritten e ++
              packByte s0 s1 s2 s3 :: (encPending e ++ literalsOf (encChoose e.p0 e.p1 b))
          ∧ (encPass b e).coll = (e.coll || packByte s0 s1 s2 s3 == 0x01#8))

/-- R21: the collision flag is set by a flush that writes 0x01, is never cleared but by reset, and its value changes nothing else that
ENC does. -/
def Obligations.CollisionFlagIsStickyAndInert : Prop :=
  (∀ e : EncState, (encFlush e).coll = (e.coll || encControl e == 0x01#8))
  ∧ (∀ s t : State, step s = .next t → s.enc.rst = false → s.enc.coll = true → t.enc.coll = true)
  ∧ ∀ (t : EncToken) (e : EncState) (flag : Bool),
    ∃ flag' : Bool, encTake t { e with coll := flag } = { encTake t e with coll := flag' }

/-- 41_encoder.md section 1: from rest and with a byte offered, ENC's step takes it and makes one pass, whatever the
byte is; it is at rest again. -/
def Obligations.ByteStepMakesOnePass : Prop :=
  ∀ (s : State) (b : Byte) (rest : List EncToken),
    encRest s.enc = true → encInReady s.enc = true → s.enc.inp = .byte b :: rest →
      encTurn s = .next { s with enc := { encPass b s.enc with inp := rest } }
      ∧ encRest { encPass b s.enc with inp := rest } = true

/-- 41_encoder.md section 4, with the output port of log 1: from rest and with `END` offered, ENC's step takes it, pads until the accumulator is empty, writes the
sentinel last, and is in `DONE`, with `enc_done` at 1, as soon as the sentinel has moved. With nothing pending it writes the
sentinel alone. The sentinel does not count as a collision. -/
def Obligations.EndStepPadsAndWritesTheSentinel : Prop :=
  ∀ (s : State) (rest : List EncToken),
    encRest s.enc = true → encInReady s.enc = true → s.enc.inp = .endTok :: rest →
      ∃ t, encTurn s = .next t ∧ t.dec = s.dec ∧ t.host = s.host ∧ t.enc.inp = rest
        ∧ t.enc.accn = 0#4 ∧ t.enc.litn = 0#3
        ∧ (∃ body, encWritten t.enc = encWritten s.enc ++ body ++ [0x01#8] ∧ body.length ≤ 5
            ∧ (s.enc.accn = 0#4 → body = []))
        ∧ t.enc.coll = (encPad 4 s.enc).coll
        ∧ (s.enc.outReady = true → encDone t = true ∧ t.enc.outq = [])
        ∧ (s.enc.outReady = false → encDone t = false
            ∧ (encMove t.enc.outq.length t.enc).phase = .done
            ∧ (encMove t.enc.outq.length t.enc).out = encWritten t.enc)

/-- 41_encoder.md section 5 (R103, derived there): the number of pad passes by the pending bits and the first pad pass; they empty the
accumulator. -/
def Obligations.PadPassTable : Prop :=
  ∀ e : EncState, encRest e = true →
    (encPad 4 e).accn = 0#4 ∧ encPadCount 4 e ≤ 4
    ∧ (e.accn = 0#4 ↔ encPadCount 4 e = 0)
    ∧ ((slotsOf (encChoose e.p0 e.p1 0x00#8)).length = 1 →
        (e.accn = 2#4 → encPadCount 4 e = 3) ∧ (e.accn = 4#4 → encPadCount 4 e = 2) ∧ (e.accn = 6#4 → encPadCount 4 e = 1))
    ∧ ((slotsOf (encChoose e.p0 e.p1 0x00#8)).length = 2 →
        (e.accn = 2#4 → encPadCount 4 e = 2) ∧ (e.accn = 4#4 → encPadCount 4 e = 1) ∧ (e.accn = 6#4 → encPadCount 4 e = 4))

/-- 20_memory.md section 3 (R53): an ENC step writes at most 6 bytes, and a DEC step at most one. -/
def Obligations.BytesWrittenPerStep : Prop :=
  (∀ s t : State, encRest s.enc = true → s.enc.rst = false → encTurn s = .next t →
    ∃ bytes, encWritten t.enc = encWritten s.enc ++ bytes ∧ bytes.length ≤ 6)
  ∧ ∀ s t : State, s.dec.rst = false → decTurn s = .next t →
    ∃ bytes, decWritten t.dec = decWritten s.dec ++ bytes ∧ bytes.length ≤ 1

/-- R104: `encode([])` is `[0x01]`, and ENC has no error on any input: every raw sequence is encoded to the end, all its tokens are
taken, and the sentinel is the last byte. -/
def Obligations.EncodeCompletesOnEveryInput : Prop :=
  (∃ t, encodeRun [] = .next t ∧ t.enc.out = [0x01#8] ∧ padCountOf [] = 0)
  ∧ ∀ raw : List Byte, ∃ t, encodeRun raw = .next t
      ∧ encDone t = true ∧ t.enc.inp = [] ∧ t.enc.outq = [] ∧ t.enc.out.getLast? = some 0x01#8
      ∧ t.dec = State.reset.dec

/-! ### The format -/

/-- 30_encoding.md sections 1 and 2: words written out from the encodings decode to the instructions they stand for: `3F 61` is LIT 0x61,
then `11` slots are REP1; `09` holds REP2 in slot 2; `1F` holds MODP 3 in slots 1 and 2; `01` is SENT. -/
def Obligations.SpecWordsDecode : Prop :=
  decode (Cursor.start [0x3F#8, 0x61#8]) = .instr (.lit 0x61#8) { ctrl := 0x3F#8, rem := 6#4, inp := [.eof] }
  ∧ decode { ctrl := 0x3F#8, rem := 6#4, inp := [.eof] } = .instr .rep1 { ctrl := 0x3F#8, rem := 4#4, inp := [.eof] }
  ∧ decode { ctrl := 0x09#8, rem := 4#4, inp := [] } = .instr .rep2 { ctrl := 0x09#8, rem := 2#4, inp := [] }
  ∧ decode { ctrl := 0x1F#8, rem := 6#4, inp := [] } = .instr (.modp 3#2) { ctrl := 0x1F#8, rem := 2#4, inp := [] }
  ∧ decode (Cursor.start [0x01#8]) = .instr .sent { ctrl := 0#8, rem := 0#4, inp := [.eof] }

/-- 30_encoding.md section 6 (R67): a listing assembles exactly when its fields fill whole control bytes and every SENT begins one. -/
def Obligations.AssemblesExactlyWhenItFits : Prop :=
  ∀ l : List Instr, (assemble l).isSome = (Listing.fillsControlBytes l && Listing.fits 0 l)

/-- 30_encoding.md sections 1, 2 and 6 (R55 to R61, R67): decode and encode agree. The bytes of every listing of fields with any operands,
without a collision, disassemble to that listing; with SENT at the end the parse ends there, and without it at the end of the stream. That it is so for a
listing with a field at which DEC would stop with `UNDEF_REF` too, since the parse keeps no history, is the model's choice, log 21. -/
def Obligations.DisassemblyInvertsAssembly : Prop :=
  ∀ (fields : List Instr) (bytes : List Byte),
    (∀ i ∈ fields, i ≠ .sent) → Listing.collisionFree fields = true →
      (assemble (fields ++ [.sent]) = some bytes → disassemble bytes = (fields ++ [.sent], none))
      ∧ (assemble fields = some bytes → disassemble bytes = (fields, some .eofCtrl))

/-- 30_encoding.md section 4 (R62) and 41_encoder.md section 5 (R105): a control byte of four slots is 0x01 exactly when they are `00 00 00
01`; ENC does write such a data-bearing byte, unchanged, and flags it. -/
def Obligations.CollisionsAreReachable : Prop :=
  (∀ s0 s1 s2 s3 : Slot, packByte s0 s1 s2 s3 = 0x01#8 ↔ s0 = 0b00#2 ∧ s1 = 0b00#2 ∧ s2 = 0b00#2 ∧ s3 = 0b01#2)
  ∧ (∃ t, encodeRun [0x02#8, 0x04#8, 0x01#8] = .next t
      ∧ t.enc.out = [0x01#8, 0x02#8, 0x04#8, 0x01#8, 0x7F#8, 0x01#8] ∧ encCollision t = true)
  ∧ (∃ t, encodeRun [0x10#8, 0x20#8, 0x40#8, 0xC0#8] = .next t
      ∧ t.enc.out = [0x01#8, 0x10#8, 0x20#8, 0x40#8, 0x0F#8, 0x00#8, 0x01#8] ∧ encCollision t = true)

/-! ### Invariants -/

/-- 10_state.md section 5: the machine right after reset is at rest. -/
def Obligations.ResetIsAtRest : Prop := atRest State.reset = true

/-- 10_state.md sections 2, 3 and 5 (R18, R19, R24, R25, R34): every step of the machine, whatever the host does, keeps both blocks at rest:
an even count of pending bits, `enc_litn` the number of pending LIT op-codes, an even slot count, no loaded control byte equal to
the sentinel, `p0` defined only when `p1` is, and the status `NONE` exactly in `RUN`. -/
def Obligations.EveryStepKeepsRest : Prop :=
  ∀ s t : State, atRest s = true → step s = .next t → atRest t = true

/-- 60_exceptions.md sections 1 and 3 (R131, R132) and I12: from rest no step faults or is refused. -/
def Obligations.EveryStepFromRestCompletes : Prop :=
  ∀ s : State, atRest s = true → Completes s

/-! ### Whole runs -/

/-- R12, R67 and 41_encoder.md sections 1 to 4: ENC is the assembler. What ENC writes for a raw sequence is the assembly of the fields it
chooses for the sequence and its pad bytes, and SENT; that listing is well formed; the fields stand for exactly the padded sequence;
and the collision flag says whether a control byte of theirs is 0x01. -/
def Obligations.EncoderWritesTheAssembledListing : Prop :=
  ∀ raw : List Byte, ∃ t, encodeRun raw = .next t
    ∧ assemble (fieldsFrom .undef .undef (padded raw) ++ [.sent]) = some t.enc.out
    ∧ Listing.wellFormed (fieldsFrom .undef .undef (padded raw) ++ [.sent]) = true
    ∧ bytesFrom .undef .undef (fieldsFrom .undef .undef (padded raw)) = padded raw
    ∧ t.enc.coll = !Listing.collisionFree (fieldsFrom .undef .undef (padded raw))

/-- 42_decoder.md sections 1 to 3: DEC runs the listing. On the bytes of a well-formed listing without a collision DEC writes one byte for each
field before SENT, the bytes the fields stand for, stops with `SENTINEL`, and leaves `EOF` unread. -/
def Obligations.DecoderRunsTheListing : Prop :=
  ∀ (fields : List Instr) (bytes : List Byte),
    Listing.wellFormed (fields ++ [.sent]) = true → Listing.collisionFree fields = true →
    assemble (fields ++ [.sent]) = some bytes →
      ∃ t, decodeRun bytes = .next t
        ∧ t.dec.out = bytesFrom .undef .undef fields ∧ t.dec.out.length = fields.length
        ∧ endedAtSentinel t = true ∧ t.dec.inp = [.eof]

/-- 41_encoder.md section 5 (R106, derived there), first case: without a collision, decoding what ENC wrote gives the sequence back, with the
pad bytes, and ends at the sentinel. -/
def Obligations.RoundTripWithoutCollision : Prop :=
  ∀ raw : List Byte, ∃ t u, encodeRun raw = .next t
    ∧ (t.enc.coll = false →
        decodeRun t.enc.out = .next u
        ∧ u.dec.out = raw ++ List.replicate (padCountOf raw) 0x00#8 ∧ padCountOf raw ≤ 4
        ∧ endedAtSentinel u = true)

/-- 42_decoder.md section 4 (R123 and R124, derived there) and 41_encoder.md section 5 (R106, derived there), second case: whatever the
sequence, collided or not, decoding what ENC wrote ends at the sentinel, and the output is exactly the bytes of the fields that stand
before the first collision, not that of a MODP whose selector the collision holds. So it is a prefix of the sequence and its pad bytes,
shorter than these when ENC has flagged a collision, and all of them when it has not. -/
def Obligations.DecodingAnEncodedStreamGivesAPrefix : Prop :=
  ∀ raw : List Byte, ∃ t u, encodeRun raw = .next t ∧ decodeRun t.enc.out = .next u
    ∧ endedAtSentinel u = true
    ∧ u.dec.out = bytesFrom .undef .undef (fieldsBeforeCollision (fieldsFrom .undef .undef (padded raw)))
    ∧ u.dec.out = (raw ++ List.replicate (padCountOf raw) 0x00#8).take
        (fieldsBeforeCollision (fieldsFrom .undef .undef (padded raw))).length
    ∧ u.dec.out <+: raw ++ List.replicate (padCountOf raw) 0x00#8
    ∧ (u.dec.out = raw ++ List.replicate (padCountOf raw) 0x00#8 ↔ t.enc.coll = false)

/-- 70_reset_and_hazards.md section 4 (R163, derived there) and 42_decoder.md section 4 (R125): on any finite stream followed by `EOF` DEC
stops, and has written at most four bytes for each token by then. The empty stream stops it with `EOF_CTRL`. -/
def Obligations.DecodeStopsOnEveryStream : Prop :=
  (∀ bytes : List Byte, ∃ t, decodeRun bytes = .next t
    ∧ decDone t = true ∧ t.dec.status ≠ .none ∧ t.dec.outq = []
    ∧ t.dec.out.length ≤ 4 * (bytes.length + 1)
    ∧ t.enc = State.reset.enc)
  ∧ ∃ t, decodeRun [] = .next t ∧ t.dec.out = [] ∧ t.dec.status = .eofCtrl
end

