-- ==== Sys2Proof/Laws/Codec.lean ====
section
/-! SUPPORT. What the fields before a collision can be: a prefix of the fields, and all of them when there is no collision. -/

namespace Sys2Proof.Machine

theorem slotCount_eq_length (i : Instr) : (slotsOf i).length = i.slotCount := by
  cases i <;> rfl

/-- The slots before the first collision begin the slots. -/
theorem slotsBeforeCollision_prefix (slots : List Slot) : slotsBeforeCollision slots <+: slots := by
  induction slots using slotsBeforeCollision.induct with
  | case1 s0 s1 s2 s3 rest h => simp [slotsBeforeCollision, h]
  | case2 s0 s1 s2 s3 rest h ih => simpa [slotsBeforeCollision, h] using ih
  | case3 short h => simp [slotsBeforeCollision]

/-- Without a collision they are all the slots. -/
theorem slotsBeforeCollision_of_free {slots : List Slot} (h : slotsCollisionFree slots = true) :
    slotsBeforeCollision slots = slots := by
  induction slots using slotsBeforeCollision.induct with
  | case1 s0 s1 s2 s3 rest hc => simp [slotsCollisionFree, hc] at h
  | case2 s0 s1 s2 s3 rest hc ih =>
    simp [slotsCollisionFree, hc] at h
    simp [slotsBeforeCollision, hc, ih h]
  | case3 short hs => simp [slotsBeforeCollision]

/-- The fields within some slots begin the fields. -/
theorem fieldsWithin_prefix (n : Nat) (fields : List Instr) : fieldsWithin n fields <+: fields := by
  induction fields generalizing n with
  | nil => simp [fieldsWithin]
  | cons i rest ih =>
    rw [fieldsWithin]
    split
    · simpa using ih _
    · simp

/-- Within all their slots stand all the fields. -/
theorem fieldsWithin_all (fields : List Instr) :
    fieldsWithin (fields.flatMap slotsOf).length fields = fields := by
  induction fields with
  | nil => rfl
  | cons i rest ih =>
    have h : (((i :: rest).flatMap slotsOf).length) = i.slotCount + (rest.flatMap slotsOf).length := by
      simp [← slotCount_eq_length]
    rw [h, fieldsWithin, if_pos (Nat.le_add_right _ _), Nat.add_sub_cancel_left, ih]

theorem fieldsBeforeCollision_prefix (fields : List Instr) : fieldsBeforeCollision fields <+: fields :=
  fieldsWithin_prefix _ _

theorem fieldsBeforeCollision_of_free {fields : List Instr} (h : Listing.collisionFree fields = true) :
    fieldsBeforeCollision fields = fields := by
  rw [fieldsBeforeCollision, slotsBeforeCollision_of_free h, fieldsWithin_all]

end Sys2Proof.Machine
end

