-- ==== Sys2Proof/Laws/Decode.lean ====
section
/-! SUPPORT. What the decoder can answer: the op-code map both ways, the fetch of a control byte, and the field at a loaded control byte. -/

namespace Sys2Proof

@[simp] theorem OpCode.ofSlot_toSlot (op : OpCode) : OpCode.ofSlot op.toSlot = op := by
  cases op <;> rfl

@[simp] theorem OpCode.toSlot_ofSlot (s : Slot) : (OpCode.ofSlot s).toSlot = s := by
  revert s
  decide

@[simp] theorem fetchCtrl_nil (ctrl : Byte) (rem : BitVec 4) : fetchCtrl ⟨ctrl, rem, []⟩ = .starved := rfl

@[simp] theorem fetchCtrl_eof (ctrl : Byte) (rem : BitVec 4) (rest : List DecToken) :
    fetchCtrl ⟨ctrl, rem, .eof :: rest⟩ = .exhausted ⟨ctrl, rem, rest⟩ := rfl

@[simp] theorem fetchCtrl_sentinel (ctrl : Byte) (rem : BitVec 4) (rest : List DecToken) :
    fetchCtrl ⟨ctrl, rem, .byte Config.sentinel :: rest⟩ = .sentinel ⟨ctrl, rem, rest⟩ := rfl

theorem fetchCtrl_byte (ctrl : Byte) (rem : BitVec 4) (rest : List DecToken) {b : Byte} (h : b ≠ Config.sentinel) :
    fetchCtrl ⟨ctrl, rem, .byte b :: rest⟩ = .loaded ⟨b, 8#4, rest⟩ := by
  simp [fetchCtrl, h]

/-- At a slot boundary the decoder fetches; a loaded control byte is read on (R111). -/
theorem decode_loaded (ctrl : Byte) (rest : List DecToken) {b : Byte} (h : b ≠ Config.sentinel) :
    decode ⟨ctrl, 0#4, .byte b :: rest⟩ = decodeField ⟨b, 8#4, rest⟩ := by
  simp [decode, fetchCtrl, h]

/-- Inside a control byte the decoder reads the field there (R111). -/
theorem decode_inside {c : Cursor} (h : c.rem ≠ 0#4) : decode c = decodeField c := by
  simp [decode, h]

/-- Everything the decoder can do at a field of a loaded control byte, by the op-code there. -/
theorem decodeField_cases (c : Cursor) :
    (OpCode.ofSlot (slotAt c.ctrl c.rem) = .literal ∧ decodeField c = readLiteral c c.dropSlot) ∨
      (OpCode.ofSlot (slotAt c.ctrl c.rem) = .modifyPrev ∧ decodeField c = readSelector c c.dropSlot) ∨
      (OpCode.ofSlot (slotAt c.ctrl c.rem) = .repeatSecondLast ∧ decodeField c = .instr .rep2 c.dropSlot) ∨
      (OpCode.ofSlot (slotAt c.ctrl c.rem) = .repeatLast ∧ decodeField c = .instr .rep1 c.dropSlot) := by
  cases h : OpCode.ofSlot (slotAt c.ctrl c.rem) <;> simp [decodeField, h]

@[simp] theorem Cursor.dropSlot_ctrl (c : Cursor) : c.dropSlot.ctrl = c.ctrl := rfl
@[simp] theorem Cursor.dropSlot_rem (c : Cursor) : c.dropSlot.rem = c.rem - 2#4 := rfl
@[simp] theorem Cursor.dropSlot_inp (c : Cursor) : c.dropSlot.inp = c.inp := rfl

end Sys2Proof
end

