-- ==== Sys2Proof/Laws/State.lean ====
section
/-! SUPPORT. One lemma for each field of each update of the state, true by `rfl` and tagged for `simp`, so that no later proof
unfolds a record update. -/

namespace Sys2Proof.Machine


/-! `State.onDec` -/

@[simp] theorem onDec_dec (f : DecState → DecState) (s : State) : (s.onDec f).dec = f s.dec := rfl
@[simp] theorem onDec_enc (f : DecState → DecState) (s : State) : (s.onDec f).enc = s.enc := rfl
@[simp] theorem onDec_host (f : DecState → DecState) (s : State) : (s.onDec f).host = s.host := rfl

/-! `State.onEnc` -/

@[simp] theorem onEnc_enc (f : EncState → EncState) (s : State) : (s.onEnc f).enc = f s.enc := rfl
@[simp] theorem onEnc_dec (f : EncState → EncState) (s : State) : (s.onEnc f).dec = s.dec := rfl
@[simp] theorem onEnc_host (f : EncState → EncState) (s : State) : (s.onEnc f).host = s.host := rfl

/-! `decReset` -/

@[simp] theorem decReset_p0 (d : DecState) : (decReset d).p0 = .undef := rfl
@[simp] theorem decReset_p1 (d : DecState) : (decReset d).p1 = .undef := rfl
@[simp] theorem decReset_ctrl (d : DecState) : (decReset d).ctrl = 0#8 := rfl
@[simp] theorem decReset_rem (d : DecState) : (decReset d).rem = 0#4 := rfl
@[simp] theorem decReset_phase (d : DecState) : (decReset d).phase = .run := rfl
@[simp] theorem decReset_status (d : DecState) : (decReset d).status = .none := rfl
@[simp] theorem decReset_inp (d : DecState) : (decReset d).inp = d.inp := rfl
@[simp] theorem decReset_out (d : DecState) : (decReset d).out = d.out := rfl
@[simp] theorem decReset_outq (d : DecState) : (decReset d).outq = [] := rfl
@[simp] theorem decReset_rst (d : DecState) : (decReset d).rst = d.rst := rfl
@[simp] theorem decReset_outReady (d : DecState) : (decReset d).outReady = d.outReady := rfl

/-! `decMoveTo` -/

@[simp] theorem decMoveTo_p0 (c : Cursor) (d : DecState) : (decMoveTo c d).p0 = d.p0 := rfl
@[simp] theorem decMoveTo_p1 (c : Cursor) (d : DecState) : (decMoveTo c d).p1 = d.p1 := rfl
@[simp] theorem decMoveTo_ctrl (c : Cursor) (d : DecState) : (decMoveTo c d).ctrl = c.ctrl := rfl
@[simp] theorem decMoveTo_rem (c : Cursor) (d : DecState) : (decMoveTo c d).rem = c.rem := rfl
@[simp] theorem decMoveTo_phase (c : Cursor) (d : DecState) : (decMoveTo c d).phase = d.phase := rfl
@[simp] theorem decMoveTo_status (c : Cursor) (d : DecState) : (decMoveTo c d).status = d.status := rfl
@[simp] theorem decMoveTo_inp (c : Cursor) (d : DecState) : (decMoveTo c d).inp = c.inp := rfl
@[simp] theorem decMoveTo_out (c : Cursor) (d : DecState) : (decMoveTo c d).out = d.out := rfl
@[simp] theorem decMoveTo_outq (c : Cursor) (d : DecState) : (decMoveTo c d).outq = d.outq := rfl
@[simp] theorem decMoveTo_rst (c : Cursor) (d : DecState) : (decMoveTo c d).rst = d.rst := rfl
@[simp] theorem decMoveTo_outReady (c : Cursor) (d : DecState) : (decMoveTo c d).outReady = d.outReady := rfl

/-! `decHistory` -/

@[simp] theorem decHistory_p0 (v : Byte) (d : DecState) : (decHistory v d).p0 = d.p1 := rfl
@[simp] theorem decHistory_p1 (v : Byte) (d : DecState) : (decHistory v d).p1 = .ofByte v := rfl
@[simp] theorem decHistory_ctrl (v : Byte) (d : DecState) : (decHistory v d).ctrl = d.ctrl := rfl
@[simp] theorem decHistory_rem (v : Byte) (d : DecState) : (decHistory v d).rem = d.rem := rfl
@[simp] theorem decHistory_phase (v : Byte) (d : DecState) : (decHistory v d).phase = d.phase := rfl
@[simp] theorem decHistory_status (v : Byte) (d : DecState) : (decHistory v d).status = d.status := rfl
@[simp] theorem decHistory_inp (v : Byte) (d : DecState) : (decHistory v d).inp = d.inp := rfl
@[simp] theorem decHistory_out (v : Byte) (d : DecState) : (decHistory v d).out = d.out := rfl
@[simp] theorem decHistory_outq (v : Byte) (d : DecState) : (decHistory v d).outq = d.outq := rfl
@[simp] theorem decHistory_rst (v : Byte) (d : DecState) : (decHistory v d).rst = d.rst := rfl
@[simp] theorem decHistory_outReady (v : Byte) (d : DecState) : (decHistory v d).outReady = d.outReady := rfl

/-! `decMove` -/

@[simp] theorem decMove_p0 (n : Nat) (d : DecState) : (decMove n d).p0 = d.p0 := rfl
@[simp] theorem decMove_p1 (n : Nat) (d : DecState) : (decMove n d).p1 = d.p1 := rfl
@[simp] theorem decMove_ctrl (n : Nat) (d : DecState) : (decMove n d).ctrl = d.ctrl := rfl
@[simp] theorem decMove_rem (n : Nat) (d : DecState) : (decMove n d).rem = d.rem := rfl
@[simp] theorem decMove_phase (n : Nat) (d : DecState) : (decMove n d).phase = d.phase := rfl
@[simp] theorem decMove_status (n : Nat) (d : DecState) : (decMove n d).status = d.status := rfl
@[simp] theorem decMove_inp (n : Nat) (d : DecState) : (decMove n d).inp = d.inp := rfl
@[simp] theorem decMove_out (n : Nat) (d : DecState) : (decMove n d).out = d.out ++ d.outq.take n := rfl
@[simp] theorem decMove_outq (n : Nat) (d : DecState) : (decMove n d).outq = d.outq.drop n := rfl
@[simp] theorem decMove_rst (n : Nat) (d : DecState) : (decMove n d).rst = d.rst := rfl
@[simp] theorem decMove_outReady (n : Nat) (d : DecState) : (decMove n d).outReady = d.outReady := rfl

/-! `encReset` -/

@[simp] theorem encReset_p0 (e : EncState) : (encReset e).p0 = .undef := rfl
@[simp] theorem encReset_p1 (e : EncState) : (encReset e).p1 = .undef := rfl
@[simp] theorem encReset_acc (e : EncState) : (encReset e).acc = 0#10 := rfl
@[simp] theorem encReset_accn (e : EncState) : (encReset e).accn = 0#4 := rfl
@[simp] theorem encReset_lit (e : EncState) : (encReset e).lit = #v[0#8, 0#8, 0#8, 0#8] := rfl
@[simp] theorem encReset_litn (e : EncState) : (encReset e).litn = 0#3 := rfl
@[simp] theorem encReset_phase (e : EncState) : (encReset e).phase = .run := rfl
@[simp] theorem encReset_coll (e : EncState) : (encReset e).coll = false := rfl
@[simp] theorem encReset_inp (e : EncState) : (encReset e).inp = e.inp := rfl
@[simp] theorem encReset_out (e : EncState) : (encReset e).out = e.out := rfl
@[simp] theorem encReset_outq (e : EncState) : (encReset e).outq = [] := rfl
@[simp] theorem encReset_closing (e : EncState) : (encReset e).closing = false := rfl
@[simp] theorem encReset_rst (e : EncState) : (encReset e).rst = e.rst := rfl
@[simp] theorem encReset_outReady (e : EncState) : (encReset e).outReady = e.outReady := rfl

/-! `encAppend` -/

@[simp] theorem encAppend_p0 (v : Slot) (e : EncState) : (encAppend v e).p0 = e.p0 := rfl
@[simp] theorem encAppend_p1 (v : Slot) (e : EncState) : (encAppend v e).p1 = e.p1 := rfl
@[simp] theorem encAppend_acc (v : Slot) (e : EncState) : (encAppend v e).acc = (e.acc <<< 2) ||| v.setWidth 10 := rfl
@[simp] theorem encAppend_accn (v : Slot) (e : EncState) : (encAppend v e).accn = e.accn + 2#4 := rfl
@[simp] theorem encAppend_lit (v : Slot) (e : EncState) : (encAppend v e).lit = e.lit := rfl
@[simp] theorem encAppend_litn (v : Slot) (e : EncState) : (encAppend v e).litn = e.litn := rfl
@[simp] theorem encAppend_phase (v : Slot) (e : EncState) : (encAppend v e).phase = e.phase := rfl
@[simp] theorem encAppend_coll (v : Slot) (e : EncState) : (encAppend v e).coll = e.coll := rfl
@[simp] theorem encAppend_inp (v : Slot) (e : EncState) : (encAppend v e).inp = e.inp := rfl
@[simp] theorem encAppend_out (v : Slot) (e : EncState) : (encAppend v e).out = e.out := rfl
@[simp] theorem encAppend_outq (v : Slot) (e : EncState) : (encAppend v e).outq = e.outq := rfl
@[simp] theorem encAppend_closing (v : Slot) (e : EncState) : (encAppend v e).closing = e.closing := rfl
@[simp] theorem encAppend_rst (v : Slot) (e : EncState) : (encAppend v e).rst = e.rst := rfl
@[simp] theorem encAppend_outReady (v : Slot) (e : EncState) : (encAppend v e).outReady = e.outReady := rfl

/-! `encPushLiteral` -/

@[simp] theorem encPushLiteral_p0 (b : Byte) (e : EncState) : (encPushLiteral b e).p0 = e.p0 := rfl
@[simp] theorem encPushLiteral_p1 (b : Byte) (e : EncState) : (encPushLiteral b e).p1 = e.p1 := rfl
@[simp] theorem encPushLiteral_acc (b : Byte) (e : EncState) : (encPushLiteral b e).acc = e.acc := rfl
@[simp] theorem encPushLiteral_accn (b : Byte) (e : EncState) : (encPushLiteral b e).accn = e.accn := rfl
@[simp] theorem encPushLiteral_lit (b : Byte) (e : EncState) : (encPushLiteral b e).lit = e.lit.setIfInBounds e.litn.toNat b := rfl
@[simp] theorem encPushLiteral_litn (b : Byte) (e : EncState) : (encPushLiteral b e).litn = e.litn + 1#3 := rfl
@[simp] theorem encPushLiteral_phase (b : Byte) (e : EncState) : (encPushLiteral b e).phase = e.phase := rfl
@[simp] theorem encPushLiteral_coll (b : Byte) (e : EncState) : (encPushLiteral b e).coll = e.coll := rfl
@[simp] theorem encPushLiteral_inp (b : Byte) (e : EncState) : (encPushLiteral b e).inp = e.inp := rfl
@[simp] theorem encPushLiteral_out (b : Byte) (e : EncState) : (encPushLiteral b e).out = e.out := rfl
@[simp] theorem encPushLiteral_outq (b : Byte) (e : EncState) : (encPushLiteral b e).outq = e.outq := rfl
@[simp] theorem encPushLiteral_closing (b : Byte) (e : EncState) : (encPushLiteral b e).closing = e.closing := rfl
@[simp] theorem encPushLiteral_rst (b : Byte) (e : EncState) : (encPushLiteral b e).rst = e.rst := rfl
@[simp] theorem encPushLiteral_outReady (b : Byte) (e : EncState) : (encPushLiteral b e).outReady = e.outReady := rfl

/-! `encHistory` -/

@[simp] theorem encHistory_p0 (b : Byte) (e : EncState) : (encHistory b e).p0 = e.p1 := rfl
@[simp] theorem encHistory_p1 (b : Byte) (e : EncState) : (encHistory b e).p1 = .ofByte b := rfl
@[simp] theorem encHistory_acc (b : Byte) (e : EncState) : (encHistory b e).acc = e.acc := rfl
@[simp] theorem encHistory_accn (b : Byte) (e : EncState) : (encHistory b e).accn = e.accn := rfl
@[simp] theorem encHistory_lit (b : Byte) (e : EncState) : (encHistory b e).lit = e.lit := rfl
@[simp] theorem encHistory_litn (b : Byte) (e : EncState) : (encHistory b e).litn = e.litn := rfl
@[simp] theorem encHistory_phase (b : Byte) (e : EncState) : (encHistory b e).phase = e.phase := rfl
@[simp] theorem encHistory_coll (b : Byte) (e : EncState) : (encHistory b e).coll = e.coll := rfl
@[simp] theorem encHistory_inp (b : Byte) (e : EncState) : (encHistory b e).inp = e.inp := rfl
@[simp] theorem encHistory_out (b : Byte) (e : EncState) : (encHistory b e).out = e.out := rfl
@[simp] theorem encHistory_outq (b : Byte) (e : EncState) : (encHistory b e).outq = e.outq := rfl
@[simp] theorem encHistory_closing (b : Byte) (e : EncState) : (encHistory b e).closing = e.closing := rfl
@[simp] theorem encHistory_rst (b : Byte) (e : EncState) : (encHistory b e).rst = e.rst := rfl
@[simp] theorem encHistory_outReady (b : Byte) (e : EncState) : (encHistory b e).outReady = e.outReady := rfl

/-! `encMove` -/

@[simp] theorem encMove_p0 (n : Nat) (e : EncState) : (encMove n e).p0 = e.p0 := rfl
@[simp] theorem encMove_p1 (n : Nat) (e : EncState) : (encMove n e).p1 = e.p1 := rfl
@[simp] theorem encMove_acc (n : Nat) (e : EncState) : (encMove n e).acc = e.acc := rfl
@[simp] theorem encMove_accn (n : Nat) (e : EncState) : (encMove n e).accn = e.accn := rfl
@[simp] theorem encMove_lit (n : Nat) (e : EncState) : (encMove n e).lit = e.lit := rfl
@[simp] theorem encMove_litn (n : Nat) (e : EncState) : (encMove n e).litn = e.litn := rfl
@[simp] theorem encMove_phase (n : Nat) (e : EncState) : (encMove n e).phase = if e.closing && (e.outq.drop n).isEmpty then .done else e.phase := rfl
@[simp] theorem encMove_coll (n : Nat) (e : EncState) : (encMove n e).coll = e.coll := rfl
@[simp] theorem encMove_inp (n : Nat) (e : EncState) : (encMove n e).inp = e.inp := rfl
@[simp] theorem encMove_out (n : Nat) (e : EncState) : (encMove n e).out = e.out ++ e.outq.take n := rfl
@[simp] theorem encMove_outq (n : Nat) (e : EncState) : (encMove n e).outq = e.outq.drop n := rfl
@[simp] theorem encMove_closing (n : Nat) (e : EncState) : (encMove n e).closing = (e.closing && !(e.outq.drop n).isEmpty) := rfl
@[simp] theorem encMove_rst (n : Nat) (e : EncState) : (encMove n e).rst = e.rst := rfl
@[simp] theorem encMove_outReady (n : Nat) (e : EncState) : (encMove n e).outReady = e.outReady := rfl

/-! `decCursor` -/

@[simp] theorem decCursor_ctrl (d : DecState) : (decCursor d).ctrl = d.ctrl := rfl
@[simp] theorem decCursor_rem (d : DecState) : (decCursor d).rem = d.rem := rfl
@[simp] theorem decCursor_inp (d : DecState) : (decCursor d).inp = d.inp := rfl
@[simp] theorem decCursor_decMoveTo (c : Cursor) (d : DecState) : decCursor (decMoveTo c d) = c := rfl
@[simp] theorem decMoveTo_decCursor (d : DecState) : decMoveTo (decCursor d) d = d := rfl

end Sys2Proof.Machine
end

