-- ==== Sys2Proof/Laws/Ops.lean ====
section
/-! SUPPORT. For each shared operation, once, everything it can do: `OutWrite`, the moves to the host, the end of a DEC step, the stop,
the append, the literal buffer and the flush. -/

namespace Sys2Proof.Machine

open Sys2Proof.Safety

/-! ### `OutWrite` and the moves to the host (R11, R39) -/

theorem encOutWrite_ready {e : EncState} (bytes : List Byte) (hr : e.outReady = true) (hq : e.outq = []) :
    encOutWrite bytes e = { e with out := e.out ++ bytes } := by
  simp [encOutWrite, hr, hq]

theorem encOutWrite_cases (bytes : List Byte) (e : EncState) :
    (e.outReady = true ∧ e.outq = [] ∧ encOutWrite bytes e = { e with out := e.out ++ bytes }) ∨
      ((e.outReady = false ∨ e.outq ≠ []) ∧ encOutWrite bytes e = { e with outq := e.outq ++ bytes }) := by
  by_cases hr : e.outReady = true <;> by_cases hq : e.outq = [] <;> simp [encOutWrite, hr, hq]

@[simp] theorem encWritten_encOutWrite (bytes : List Byte) (e : EncState) :
    encWritten (encOutWrite bytes e) = encWritten e ++ bytes := by
  rcases encOutWrite_cases bytes e with ⟨_, hq, h⟩ | ⟨_, h⟩ <;> rw [h] <;> simp [encWritten, *]

@[simp] theorem encWritten_encMove (n : Nat) (e : EncState) : encWritten (encMove n e) = encWritten e := by
  simp [encWritten, List.append_assoc]

theorem decOutWrite_ready {d : DecState} (v : Byte) (hr : d.outReady = true) (hq : d.outq = []) :
    decOutWrite v d = { d with out := d.out ++ [v] } := by
  simp [decOutWrite, hr, hq]

theorem decOutWrite_cases (v : Byte) (d : DecState) :
    (d.outReady = true ∧ d.outq = [] ∧ decOutWrite v d = { d with out := d.out ++ [v] }) ∨
      ((d.outReady = false ∨ d.outq ≠ []) ∧ decOutWrite v d = { d with outq := d.outq ++ [v] }) := by
  by_cases hr : d.outReady = true <;> by_cases hq : d.outq = [] <;> simp [decOutWrite, hr, hq]

@[simp] theorem decWritten_decOutWrite (v : Byte) (d : DecState) :
    decWritten (decOutWrite v d) = decWritten d ++ [v] := by
  rcases decOutWrite_cases v d with ⟨_, hq, h⟩ | ⟨_, h⟩ <;> rw [h] <;> simp [decWritten, *]

@[simp] theorem decWritten_decMove (n : Nat) (d : DecState) : decWritten (decMove n d) = decWritten d := by
  simp [decWritten, List.append_assoc]

/-! ### The end of a DEC step (R118, R120) -/

theorem decEmit_run {d : DecState} (v : Byte) (h : d.phase = .run) :
    decEmit v d = decHistory v (decOutWrite v d) := by
  simp [decEmit, h]

theorem decEmit_done {d : DecState} (v : Byte) (h : d.phase = .done) : decEmit v d = d := by
  simp [decEmit, h]

theorem decStop_run {d : DecState} (why : DecStatus) (h : d.phase = .run) :
    decStop why d = { d with status := why, phase := .done } := by
  simp [decStop, h]

theorem decStop_done {d : DecState} (why : DecStatus) (h : d.phase = .done) : decStop why d = d := by
  simp [decStop, h]

/-- Everything a DEC output byte does in `RUN`: `WritesByte` of it. -/
theorem writesByte_decEmit {s : State} (v : Byte) (h : s.dec.phase = .run) :
    WritesByte v s (s.onDec (decEmit v)) := by
  rcases decOutWrite_cases v s.dec with ⟨hr, hq, hw⟩ | ⟨hn, hw⟩
  · simp [WritesByte, decEmit_run v h, hw, hq, decWritten, h]
  · refine ⟨?_, ?_, ?_⟩
    · simp [decEmit_run v h, hw, decWritten]
    · intro hr hq
      rcases hn with hn | hn
      · simp [hr] at hn
      · exact absurd hq hn
    · simp [decEmit_run v h, hw, h]

/-- Everything a stop does in `RUN`: `StopsWith` of its status. -/
theorem stopsWith_decStop {s : State} (why : DecStatus) (h : s.dec.phase = .run) :
    StopsWith why s (s.onDec (decStop why)) := by
  simp [StopsWith, State.onDec, decStop_run why h]

theorem decEmitOrStop_some (v : Byte) (d : DecState) : decEmitOrStop (some v) d = decEmit v d := rfl

theorem decEmitOrStop_none (d : DecState) : decEmitOrStop none d = decStop .undefRef d := rfl

/-! ### The implicit operands (R9, R76) -/

theorem toOption_of_isDef {x : OptByte} (h : x.isDef = true) : x.toOption = some x.val := by
  simp [OptByte.toOption, h]

theorem toOption_of_undef {x : OptByte} (h : x.isDef = false) : x.toOption = none := by
  simp [OptByte.toOption, h]

theorem optionOperand_undef (sel : BitVec 2) {d : DecState} (h : d.p1.isDef = false) :
    optionOperand sel d = none := by
  simp [optionOperand, odr, h]

/-- The mask of R78 is what 8 bits keep of the left shift. -/
theorem opt0_eq (b : Byte) : opt0 b = b ||| (b <<< 1) := by
  apply BitVec.eq_of_getLsbD_eq
  intro i hi
  interval_cases i <;> simp [opt0, shl1]

/-- Bit 8 of the left shift meets no bit of `b` (R79). -/
theorem opt1_eq (b : Byte) : opt1 b = b &&& (b <<< 1) := by
  apply BitVec.eq_of_getLsbD_eq
  intro i hi
  interval_cases i <;> simp [opt1, shl1]

theorem odr_ofByte (b : Byte) : odr (.ofByte b) = [opt0 b, opt1 b, opt2 b, opt3 b] := rfl

theorem odr_undef {x : OptByte} (h : x.isDef = false) : odr x = [] := by
  simp [odr, h]

theorem eqByte_iff {x : OptByte} {b : Byte} : x.eqByte b = true ↔ x = .ofByte b := by
  cases x
  simp [OptByte.eqByte, OptByte.ofByte]

/-! ### The flush (R95 to R97) -/

@[simp] theorem encWritten_encFlush (e : EncState) :
    encWritten (encFlush e) = encWritten e ++ encControl e :: encPending e := by
  rw [encFlush, encWritten_encOutWrite]
  rfl

/-- Everything a flush does to the registers. -/
theorem encFlush_registers (e : EncState) :
    (encFlush e).acc = encLeftover e ∧ (encFlush e).accn = e.accn - 8#4 ∧ (encFlush e).litn = 0#3
      ∧ (encFlush e).coll = (e.coll || isCollision (encControl e))
      ∧ (encFlush e).p0 = e.p0 ∧ (encFlush e).p1 = e.p1 ∧ (encFlush e).lit = e.lit
      ∧ (encFlush e).phase = e.phase ∧ (encFlush e).closing = e.closing ∧ (encFlush e).inp = e.inp
      ∧ (encFlush e).rst = e.rst ∧ (encFlush e).outReady = e.outReady := by
  unfold encFlush encOutWrite
  split <;> simp

theorem encFlushFull_of_le {e : EncState} (h : 8 ≤ e.accn.toNat) : encFlushFull e = encFlush e := by
  simp [encFlushFull, h]

theorem encFlushFull_of_lt {e : EncState} (h : e.accn.toNat < 8) : encFlushFull e = e := by
  simp [encFlushFull]
  omega

/-- A 4-bit count is below 8 after one flush: the `while` of R88 runs at most once. -/
theorem encFlushFull_accn_lt (e : EncState) : (encFlushFull e).accn.toNat < 8 := by
  by_cases h : 8 ≤ e.accn.toNat
  · have h' := (encFlush_registers e).2.1
    rw [encFlushFull_of_le h, h']
    have := e.accn.isLt
    simp [BitVec.toNat_sub]
    omega
  · rw [encFlushFull_of_lt (by omega)]
    omega

/-! ### What a pass leaves alone (R88, R94) -/

/-- Recording a field changes the accumulator and the literal buffer only. -/
theorem encRecord_frame (i : Instr) (e : EncState) :
    (encRecord i e).p0 = e.p0 ∧ (encRecord i e).p1 = e.p1 ∧ (encRecord i e).phase = e.phase
      ∧ (encRecord i e).coll = e.coll ∧ (encRecord i e).closing = e.closing ∧ (encRecord i e).inp = e.inp
      ∧ (encRecord i e).out = e.out ∧ (encRecord i e).outq = e.outq ∧ (encRecord i e).rst = e.rst
      ∧ (encRecord i e).outReady = e.outReady := by
  cases i <;> simp [encRecord, encode, slotsOf, literalsOf, encAppendAll, encPushAll]

/-- A pass updates the history (R94) and leaves the phase, the input stream and the pins alone. -/
theorem encPass_frame (b : Byte) (e : EncState) :
    (encPass b e).p0 = e.p1 ∧ (encPass b e).p1 = .ofByte b ∧ (encPass b e).phase = e.phase
      ∧ (encPass b e).closing = e.closing ∧ (encPass b e).inp = e.inp ∧ (encPass b e).rst = e.rst
      ∧ (encPass b e).outReady = e.outReady := by
  have hr := encRecord_frame (encChoose e.p0 e.p1 b) e
  have hf := encFlush_registers (encHistory b (encRecord (encChoose e.p0 e.p1 b) e))
  unfold encPass encFlushFull
  split <;> simp [hf, hr]

end Sys2Proof.Machine
end

