-- ==== Sys2Proof/Laws/PerInstr.lean ====
section
/-! SUPPORT. Facts about every instruction as syntax, one lemma per constructor. -/

namespace Sys2Proof.Laws.EncodedField

/-- The encoding of the instruction has the lengths that `slotCount` and `literalCount` give it (R65), and read back at a cursor where it
stands next it is the instruction, with what follows left alone (R57 to R61, R113). -/
def Statement (i : Instr) : Prop :=
  (encode i).1.length = i.slotCount ∧ (encode i).2.length = i.literalCount
    ∧ ∀ rest : List DecToken, ∃ after : Cursor,
      decode (encodeCursor i rest) = .instr i after ∧ after.rem = 0#4 ∧ after.inp = rest

theorem lit (literal : Byte) : Statement (.lit literal) :=
  ⟨rfl, rfl, fun rest => ⟨⟨packByte 0#2 0#2 0#2 0b00#2, 0#4, rest⟩,
    by simp [encodeCursor, decode, decodeField, readLiteral, slotsOf, literalsOf, packLow, Cursor.dropSlot, OpCode.toSlot,
      packByte, slotAt, OpCode.ofSlot], rfl, rfl⟩⟩

theorem modp (sel : BitVec 2) : Statement (.modp sel) := by
  refine ⟨rfl, rfl, fun rest => ⟨⟨packByte 0#2 0#2 0b01#2 sel, 0#4, rest⟩, ?_, rfl, rfl⟩⟩
  have h : ∀ sel : BitVec 2, OpCode.ofSlot (slotAt (packByte 0#2 0#2 0b01#2 sel) 4#4) = .modifyPrev
      ∧ slotAt (packByte 0#2 0#2 0b01#2 sel) 2#4 = sel := by decide
  have h0 : encodeCursor (.modp sel) rest = ⟨packByte 0#2 0#2 0b01#2 sel, 4#4, rest⟩ := rfl
  have h1 : (4#4 : BitVec 4) - 2#4 = 2#4 := by decide
  have h2 : (2#4 : BitVec 4) - 2#4 = 0#4 := by decide
  rw [h0, decode_inside (by simp)]
  simp only [decodeField, (h sel).1, readSelector, selectorHere, Cursor.dropSlot, h1, h2, (h sel).2]
  rfl

theorem rep2 : Statement .rep2 :=
  ⟨rfl, rfl, fun rest => ⟨⟨packByte 0#2 0#2 0#2 0b10#2, 0#4, rest⟩,
    by simp [encodeCursor, decode, decodeField, slotsOf, literalsOf, packLow, Cursor.dropSlot, OpCode.toSlot,
      packByte, slotAt, OpCode.ofSlot], rfl, rfl⟩⟩

theorem rep1 : Statement .rep1 :=
  ⟨rfl, rfl, fun rest => ⟨⟨packByte 0#2 0#2 0#2 0b11#2, 0#4, rest⟩,
    by simp [encodeCursor, decode, decodeField, slotsOf, literalsOf, packLow, Cursor.dropSlot, OpCode.toSlot,
      packByte, slotAt, OpCode.ofSlot], rfl, rfl⟩⟩

theorem sent : Statement .sent :=
  ⟨rfl, rfl, fun rest => ⟨⟨0#8, 0#4, rest⟩, rfl, rfl, rfl⟩⟩

end Sys2Proof.Laws.EncodedField
end

