-- ==== Sys2Proof/Laws/Step.lean ====
section
/-! SUPPORT. Everything a step of a block, and a step of the machine, can do: one inversion lemma each. -/

namespace Sys2Proof.Machine

/-- Every instruction answers a next state that differs in DEC alone, by an output byte or a stop. -/
theorem exec_next (i : Instr) (s : State) :
    ∃ f : DecState → DecState, exec i s = .next (s.onDec f)
      ∧ ((∃ v, f = decEmit v) ∨ ∃ why, why ≠ .none ∧ f = decStop why) := by
  cases i with
  | lit b => exact ⟨_, rfl, .inl ⟨b, rfl⟩⟩
  | sent => exact ⟨_, rfl, .inr ⟨.sentinel, by decide, rfl⟩⟩
  | modp sel =>
    refine ⟨_, rfl, ?_⟩
    cases optionOperand sel s.dec with
    | some v => exact .inl ⟨v, rfl⟩
    | none => exact .inr ⟨.undefRef, by decide, rfl⟩
  | rep2 =>
    refine ⟨_, rfl, ?_⟩
    cases secondLastOperand s.dec with
    | some v => exact .inl ⟨v, rfl⟩
    | none => exact .inr ⟨.undefRef, by decide, rfl⟩
  | rep1 =>
    refine ⟨_, rfl, ?_⟩
    cases lastOperand s.dec with
    | some v => exact .inl ⟨v, rfl⟩
    | none => exact .inr ⟨.undefRef, by decide, rfl⟩

/-- Everything ENC's step can do. -/
theorem encTurn_cases {s t : State} (h : encTurn s = .next t) :
    (s.enc.rst = true ∧ t = s.onEnc encReset) ∨
      (encOutValid s.enc = true ∧ s.enc.outReady = true ∧ t = s.onEnc fun e => encMove e.outq.length e) ∨
      (encOutValid s.enc = true ∧ s.enc.outReady = false ∧ t = s) ∨
      (encInReady s.enc = true ∧ s.enc.inp = [] ∧ t = s) ∨
      (∃ tok rest, encInReady s.enc = true ∧ encLegal s.enc = true ∧ s.enc.inp = tok :: rest
        ∧ t = s.onEnc fun e => encTake tok { e with inp := rest }) ∨
      (s.enc.rst = false ∧ encOutValid s.enc = false ∧ encInReady s.enc = false ∧ t = s) := by
  unfold encTurn at h
  split at h
  next hr => exact .inl ⟨hr, by simpa using h.symm⟩
  next hr =>
    split at h
    next hv =>
      split at h
      next ho => exact .inr (.inl ⟨hv, ho, by simpa using h.symm⟩)
      next ho => exact .inr (.inr (.inl ⟨hv, by simpa using ho, by simpa using h.symm⟩))
    next hv =>
      split at h
      next hi =>
        split at h
        next hn => exact .inr (.inr (.inr (.inl ⟨hi, hn, by simpa using h.symm⟩)))
        next tok rest hn =>
          split at h
          next hl => exact .inr (.inr (.inr (.inr (.inl ⟨tok, rest, hi, hl, hn, by simpa using h.symm⟩))))
          next => cases h
      next hi =>
        exact .inr (.inr (.inr (.inr (.inr ⟨by simpa using hr, by simpa using hv, by simpa using hi, by simpa using h.symm⟩))))

/-- Everything DEC's step can do. -/
theorem decTurn_cases {s t : State} (h : decTurn s = .next t) :
    (s.dec.rst = true ∧ t = s.onDec decReset) ∨
      (decOutValid s.dec = true ∧ s.dec.outReady = true ∧ t = s.onDec fun d => decMove d.outq.length d) ∨
      (decOutValid s.dec = true ∧ s.dec.outReady = false ∧ t = s) ∨
      (s.dec.rst = false ∧ s.dec.phase = .done ∧ t = s) ∨
      (s.dec.rst = false ∧ s.dec.phase = .run ∧ decOutValid s.dec = false ∧ decLegal s.dec = true
        ∧ decRun (decode (decCursor s.dec)) s = .next t) := by
  unfold decTurn at h
  split at h
  next hr => exact .inl ⟨hr, by simpa using h.symm⟩
  next hr =>
    split at h
    next hv =>
      split at h
      next ho => exact .inr (.inl ⟨hv, ho, by simpa using h.symm⟩)
      next ho => exact .inr (.inr (.inl ⟨hv, by simpa using ho, by simpa using h.symm⟩))
    next hv =>
      split at h
      next hp => exact .inr (.inr (.inr (.inl ⟨by simpa using hr, hp, by simpa using h.symm⟩)))
      next hp =>
        split at h
        next hl => exact .inr (.inr (.inr (.inr ⟨by simpa using hr, hp, by simpa using hv, hl, h⟩)))
        next => cases h

/-- Everything DEC can do with the decoder's answer: an output byte or a stop after the field, the stop of a stream that ends too
early, or waiting. -/
theorem decRun_cases {a : Decoded} {s t : State} (h : decRun a s = .next t) :
    (∃ i after f, a = .instr i after ∧ t = s.onDec (fun d => f (decMoveTo after d))
        ∧ ((∃ v, f = decEmit v) ∨ ∃ why, why ≠ .none ∧ f = decStop why)) ∨
      (∃ why after, a = .ends why after ∧ t = s.onDec (fun d => decStop (endStatus why) (decMoveTo after d))) ∨
      (∃ w, a = .starved w ∧ t = s.onDec (decMoveTo w)) := by
  cases a with
  | instr i after =>
    obtain ⟨f, hf, hk⟩ := exec_next i (s.onDec (decMoveTo after))
    rw [decRun, hf] at h
    exact .inl ⟨i, after, f, rfl, by simpa [State.onDec] using h.symm, hk⟩
  | ends why after => exact .inr (.inl ⟨why, after, rfl, by simpa [decRun] using h.symm⟩)
  | starved w => exact .inr (.inr ⟨w, rfl, by simpa [decRun] using h.symm⟩)

/-- A step of the machine with no host action pending is ENC's step and then DEC's (log 4). -/
theorem step_of_host_nil {s t : State} (hh : s.host = []) (h : step s = .next t) :
    ∃ m, encTurn s = .next m ∧ decTurn m = .next t := by
  unfold step coreStep at h
  rw [hh] at h
  simp only [bothTurns] at h
  cases he : encTurn s with
  | next m => exact ⟨m, rfl, by simpa [he] using h⟩
  | fault r => cases r
  | refused r => simp [he] at h

/-- A step of the machine with a host action pending is that action (log 3). -/
theorem step_of_host_cons {s : State} {a : HostAction} {rest : List HostAction} (hh : s.host = a :: rest) :
    step s = hostAct a { s with host := rest } := by
  simp [step, coreStep, hh]

end Sys2Proof.Machine
end

