-- ==== Sys2Proof/Tests/Slice0.lean ====
section
/-! SUPPORT. The model's own tests. Expected values are the spec's: its encodings (30_encoding.md) and its vectors (95_test_vectors.md), named in
the comment of each test; the witnesses show that the hypotheses of the statements can be met together. -/

namespace Sys2Proof.Tests

open Sys2Proof.Machine Sys2Proof.Safety

/-! ### Helpers -/

/-- Whether an outcome is a next state with this property. -/
def nextIs (o : Host.Outcome State Fault Refusal) (p : State → Bool) : Bool :=
  match o with
  | .next t => p t
  | .fault _ => false
  | .refused _ => false

/-- Whether an outcome is this refusal. -/
def refusedBy (o : Host.Outcome State Fault Refusal) (r : Refusal) : Bool :=
  match o with
  | .next _ => false
  | .fault _ => false
  | .refused r' => r' == r

/-- A state whose DEC has this history, control byte, count and tokens, and moves next. -/
def decAt (p0 p1 : OptByte) (ctrl : Byte) (rem : BitVec 4) (inp : List DecToken) : State :=
  { State.reset with
    host := [.letDec]
    dec := { DecState.reset with p0 := p0, p1 := p1, ctrl := ctrl, rem := rem, inp := inp } }

/-- An ENC with this history and these pending bits and literals. -/
def encAt (p0 p1 : OptByte) (acc : BitVec 10) (accn : BitVec 4) (l0 l1 l2 : Byte) (litn : BitVec 3) : EncState :=
  { EncState.reset with p0 := p0, p1 := p1, acc := acc, accn := accn, lit := #v[l0, l1, l2, 0#8], litn := litn }

/-- A state with that ENC and these tokens offered to it, which moves next. -/
def encWith (e : EncState) (inp : List EncToken) : State :=
  { State.reset with host := [.letEnc], enc := { e with inp := inp } }

/-- A defined history entry. -/
abbrev df (b : Byte) : OptByte := .ofByte b

/-- `⊥`. -/
abbrev un : OptByte := .undef

/-! ### WellFormed: an ill-formed listing for each check -/

theorem test_wf_refuses_half_filled_control_byte : Listing.fillsControlBytes [.lit 1#8, .rep1, .modp 0#2] = true
    ∧ Listing.fillsControlBytes [.lit 1#8, .rep1] = false := by decide
theorem test_wf_refuses_sent_inside_a_control_byte : Listing.fits 0 [.lit 1#8, .sent, .rep1, .rep1, .rep1] = false
    ∧ Listing.fits 0 [.lit 1#8, .modp 2#2, .modp 1#2, .modp 0#2, .rep1, .sent] = true := by decide
theorem test_wf_refuses_slot_outside_the_control_byte : Instr.fitsAt 4 .rep1 = false ∧ Instr.fitsAt 3 (.modp 0#2) = true
    ∧ Instr.fitsAt 1 .sent = false ∧ Instr.fitsAt 0 .sent = true := by decide
theorem test_wf_refuses_missing_or_early_sent : Listing.endsWithSent [.lit 1#8] = false
    ∧ Listing.endsWithSent [.sent, .lit 1#8, .sent] = false ∧ Listing.endsWithSent [.sent] = true := by decide
theorem test_wf_refuses_undefined_references : Listing.historyDefined 0 [.rep1] = false
    ∧ Listing.historyDefined 0 [.modp 0#2] = false ∧ Listing.historyDefined 0 [.lit 1#8, .rep2] = false
    ∧ Listing.historyDefined 0 [.lit 1#8, .rep1, .rep2] = true := by decide
/-- R62: LIT, LIT, LIT, MODP is a collision; vector ENC-C1. -/
theorem test_wf_refuses_collision : Listing.collisionFree [.lit 2#8, .lit 4#8, .lit 1#8, .modp 1#2, .rep1, .rep1, .rep1] = false
    := by decide
/-- The listing of program P1. -/
theorem test_wf_accepts_P1 : Listing.wellFormed
    [.lit 0x1E#8, .rep1, .rep1, .modp 0#2, .rep1, .lit 0#8, .rep1, .sent] = true := by decide

/-! ### Decode: words written out from the encodings of 30_encoding.md -/

/-- `3F 61`: slots `00 11 11 11`, LIT in slot 0 (R58, R67). -/
theorem test_decode_lit : decode ⟨0x00#8, 0#4, [.byte 0x3F#8, .byte 0x61#8]⟩ = .instr (.lit 0x61#8) ⟨0x3F#8, 6#4, []⟩ := by decide
/-- A literal 0x01 is data (R61). -/
theorem test_decode_lit_one : decode ⟨0x3F#8, 8#4, [.byte 0x01#8]⟩ = .instr (.lit 0x01#8) ⟨0x3F#8, 6#4, []⟩ := by decide
/-- `1F`: slots `00 01 11 11`, MODP 3 in slots 1 and 2 (P2). -/
theorem test_decode_modp : decode ⟨0x1F#8, 6#4, []⟩ = .instr (.modp 3#2) ⟨0x1F#8, 2#4, []⟩ := by decide
/-- `0D` then `BF`: MODP in slot 3, its selector 2 in slot 0 of the next control byte (P3). -/
theorem test_decode_modp_spanning : decode ⟨0x0D#8, 2#4, [.byte 0xBF#8]⟩ = .instr (.modp 2#2) ⟨0xBF#8, 6#4, []⟩ := by decide
/-- `09`: slots `00 00 10 01`, REP2 in slot 2 (ENC-3). -/
theorem test_decode_rep2 : decode ⟨0x09#8, 4#4, []⟩ = .instr .rep2 ⟨0x09#8, 2#4, []⟩ := by decide
/-- `C0`: slot 0 is `11` (DEC-3). -/
theorem test_decode_rep1 : decode ⟨0x00#8, 0#4, [.byte 0xC0#8]⟩ = .instr .rep1 ⟨0xC0#8, 6#4, []⟩ := by decide
/-- 0x01 where a control byte is expected, and where a selector is (R59, R122, DEC-8). -/
theorem test_decode_sent : decode ⟨0x00#8, 0#4, [.byte 0x01#8]⟩ = .instr .sent ⟨0x00#8, 0#4, []⟩
    ∧ decode ⟨0x0D#8, 2#4, [.byte 0x01#8]⟩ = .instr .sent ⟨0x0D#8, 0#4, []⟩ := by decide
/-- The three ends of a stream (R112, R116, R117; DEC-1, DEC-7, DEC-9). -/
theorem test_decode_ends : decode ⟨0x00#8, 0#4, [.eof]⟩ = .ends .eofCtrl ⟨0x00#8, 0#4, []⟩
    ∧ decode ⟨0x00#8, 6#4, [.eof]⟩ = .ends .eofLit ⟨0x00#8, 4#4, []⟩
    ∧ decode ⟨0x0D#8, 2#4, [.eof]⟩ = .ends .eofSel ⟨0x0D#8, 0#4, []⟩ := by decide
/-- The words of spec/opcode_table.json. -/
theorem test_table_words : decodeTableWord 8 0 = some (.lit 0#8) ∧ decodeTableWord 8 4 = some (.modp 0#2)
    ∧ decodeTableWord 8 7 = some (.modp 3#2) ∧ decodeTableWord 8 2 = some .rep2 ∧ decodeTableWord 8 3 = some .rep1
    ∧ decodeTableWord 8 1 = some .sent := by decide
/-- Placed right after reset, each table word runs at the next step: LIT writes its zero operand, the references stop (R114 to R116), SENT stops. -/
theorem test_table_words_run : nextIs (step (State.reset.withFetchWord 8 0)) (fun t => t.dec.out == [0#8] && t.dec.phase == .run)
    = true ∧ nextIs (step (State.reset.withFetchWord 8 4)) (fun t => t.dec.status == .undefRef) = true
    ∧ nextIs (step (State.reset.withFetchWord 8 2)) (fun t => t.dec.status == .undefRef) = true
    ∧ nextIs (step (State.reset.withFetchWord 8 3)) (fun t => t.dec.status == .undefRef) = true
    ∧ nextIs (step (State.reset.withFetchWord 8 1)) (fun t => t.dec.status == .sentinel) = true := by decide
/-- R67's example: `LIT 0x61; REP1; REP1; REP1; SENT` assembles to `3F 61 01`; P3's listing, without SENT, to `0D 61 62 BF`. -/
theorem test_assemble : assemble [.lit 0x61#8, .rep1, .rep1, .rep1, .sent] = some [0x3F#8, 0x61#8, 0x01#8]
    ∧ assemble [.lit 0x61#8, .lit 0x62#8, .rep1, .modp 2#2, .rep1, .rep1, .rep1] = some [0x0D#8, 0x61#8, 0x62#8, 0xBF#8]
    ∧ assemble [.lit 0x61#8] = none := by decide
theorem test_disassemble : disassemble [0x3F#8, 0x61#8, 0x01#8] = ([.lit 0x61#8, .rep1, .rep1, .rep1, .sent], none) := by decide

/-! ### ODR: rows of 95_test_vectors.md section 2.1 and the worked examples of R78 to R81 -/

theorem test_odr_1E : odr (df 0x1E#8) = [0x3E#8, 0x1C#8, 0x1F#8, 0x0E#8] := by decide
theorem test_odr_C3 : odr (df 0xC3#8) = [0xC7#8, 0x82#8, 0xE3#8, 0x41#8] := by decide

/-! ### DEC: one step each, from the vectors of section 2.5 and the programs of section 3 -/

/-- P1 step 1: `3D 1E` writes 1E. -/
theorem test_step_lit : nextIs (step (decAt un un 0#8 0#4 [.byte 0x3D#8, .byte 0x1E#8]))
    (fun t => t.dec.out == [0x1E#8] && t.dec.p0 == un && t.dec.p1 == df 0x1E#8 && t.dec.ctrl == 0x3D#8 && t.dec.rem == 6#4)
    = true := by decide
/-- P1 step 4: `33` is fetched for the selector and MODP 0 writes 3E. -/
theorem test_step_modp : nextIs (step (decAt (df 0x1E#8) (df 0x1E#8) 0x3D#8 2#4 [.byte 0x33#8]))
    (fun t => t.dec.out == [0x3E#8] && t.dec.p0 == df 0x1E#8 && t.dec.p1 == df 0x3E#8 && t.dec.ctrl == 0x33#8 && t.dec.rem == 6#4)
    = true := by decide
/-- DEC-5: MODP with `dec_p1 = ⊥` reads its selector and stops with `UNDEF_REF` and `rem=4`. -/
theorem test_step_modp_undefined : nextIs (step (decAt un un 0#8 0#4 [.byte 0x40#8, .eof]))
    (fun t => t.dec.out == [] && t.dec.status == .undefRef && t.dec.phase == .done && t.dec.rem == 4#4 && t.dec.inp == [.eof])
    = true := by decide
/-- P2 step 3: REP2 writes 10. -/
theorem test_step_rep2 : nextIs (step (decAt (df 0x10#8) (df 0x20#8) 0x08#8 4#4 []))
    (fun t => t.dec.out == [0x10#8] && t.dec.p0 == df 0x20#8 && t.dec.p1 == df 0x10#8 && t.dec.rem == 2#4) = true := by decide
/-- DEC-4: REP2 with `dec_p0 = ⊥`. -/
theorem test_step_rep2_undefined : nextIs (step (decAt un (df 0x61#8) 0x20#8 6#4 []))
    (fun t => t.dec.status == .undefRef && t.dec.p1 == df 0x61#8 && t.dec.rem == 4#4) = true := by decide
/-- P3 step 3: REP1 writes 62. -/
theorem test_step_rep1 : nextIs (step (decAt (df 0x61#8) (df 0x62#8) 0x0D#8 4#4 [.byte 0xBF#8]))
    (fun t => t.dec.out == [0x62#8] && t.dec.p0 == df 0x62#8 && t.dec.p1 == df 0x62#8 && t.dec.inp == [.byte 0xBF#8])
    = true := by decide
/-- DEC-3: REP1 as the first field. -/
theorem test_step_rep1_undefined : nextIs (step (decAt un un 0#8 0#4 [.byte 0xC0#8]))
    (fun t => t.dec.status == .undefRef && t.dec.ctrl == 0xC0#8 && t.dec.rem == 6#4) = true := by decide
/-- P1 step 8: the sentinel stops DEC; the bytes after it are not read (DEC-10). -/
theorem test_step_sent : nextIs (step (decAt (df 0#8) (df 0#8) 0x33#8 0#4 [.byte 0x01#8, .byte 0xFF#8]))
    (fun t => t.dec.status == .sentinel && t.dec.phase == .done && t.dec.ctrl == 0x33#8 && t.dec.inp == [.byte 0xFF#8]
      && t.dec.out == []) = true := by decide
/-- Log 5: with the control byte taken and the literal not offered yet, DEC waits; the literal then completes the step. -/
theorem test_step_waits : nextIs (step (decAt un un 0#8 0#4 [.byte 0x3F#8]))
    (fun t => t.dec.ctrl == 0x3F#8 && t.dec.rem == 8#4 && t.dec.out == [] && t.dec.phase == .run) = true
    ∧ nextIs (step (decAt un un 0x3F#8 8#4 [.byte 0x61#8])) (fun t => t.dec.out == [0x61#8] && t.dec.rem == 6#4) = true := by decide
/-- I12: an odd `dec_rem` is refused. -/
theorem test_step_refuses_odd_count : refusedBy (step (decAt un un 0#8 3#4 [])) .unreachableDec = true := by decide
/-- A byte waits while the host is not ready, and moves when it is (R39). -/
theorem test_byte_waits_for_the_host : nextIs (exec .rep1 ((decAt un (df 7#8) 0#8 0#4 []).onDec fun d => { d with outReady := false }))
    (fun t => t.dec.out == [] && t.dec.outq == [7#8] && nextIs (hostAct .takeDec t) (fun u => u.dec.out == [7#8] && u.dec.outq == []))
    = true := by decide

/-! ### ENC: one pass each, from the programs of section 3 -/

/-- P1 row 1: the first byte is LIT. -/
theorem test_pass_lit : encPass 0x1E#8 EncState.reset = { encAt un (df 0x1E#8) 0b00#10 2#4 0x1E#8 0#8 0#8 1#3 with coll := false } := by decide
/-- P1 row 4: MODP 0 in slot 3; the flush writes `3D 1E` and leaves the selector. -/
theorem test_pass_modp_flush : encPass 0x3E#8 (encAt (df 0x1E#8) (df 0x1E#8) 0b001111#10 6#4 0x1E#8 0#8 0#8 1#3)
    = { encAt (df 0x1E#8) (df 0x3E#8) 0b00#10 2#4 0x1E#8 0#8 0#8 0#3 with out := [0x3D#8, 0x1E#8] } := by decide
/-- P2 row 3: REP2. ENC-2: REP1 wins when `p0 = p1 = b`. ENC-5, ENC-6: MODP takes the lowest index. -/
theorem test_choice : encChoose (df 0x10#8) (df 0x20#8) 0x10#8 = .rep2 ∧ encChoose (df 0x61#8) (df 0x61#8) 0x61#8 = .rep1
    ∧ encChoose un (df 0x01#8) 0x00#8 = .modp 1#2 ∧ encChoose un (df 0xAB#8) 0xFF#8 = .modp 0#2
    ∧ encChoose un un 0x00#8 = .lit 0x00#8 := by decide
/-- P4, the `END` step: four pad passes, the collision flagged and written, then the sentinel. -/
theorem test_end_step : nextIs (step (encWith (encAt (df 0x04#8) (df 0x01#8) 0b000000#10 6#4 0x02#8 0x04#8 0x01#8 3#3) [.endTok]))
    (fun t => t.enc.out == [0x01#8, 0x02#8, 0x04#8, 0x01#8, 0x7F#8, 0x01#8] && t.enc.coll && encDone t && t.enc.p0 == df 0#8
      && t.enc.p1 == df 0#8 && t.enc.accn == 0#4 && t.enc.litn == 0#3) = true := by decide
/-- `encode([])` is `01` (W1). -/
theorem test_end_of_empty : nextIs (step (encWith EncState.reset [.endTok])) (fun t => t.enc.out == [0x01#8] && encDone t) = true := by decide
/-- I12: an odd `enc_accn` is refused when a token is taken. -/
theorem test_enc_refuses_odd_count : refusedBy (step (encWith (encAt un un 0#10 3#4 0#8 0#8 0#8 0#3) [.endTok])) .unreachableEnc = true := by decide

end Sys2Proof.Tests
end

