-- ==== Sys2Proof/Tests/Witnesses.lean ====
section
/-! SUPPORT. For every statement that has hypotheses, a concrete state and operands that meet them together, for each of its clauses, at the
boundary of its range. The name after `witness_` is the statement's. -/

namespace Sys2Proof.Tests

open Sys2Proof.Machine Sys2Proof.Safety

/-- A state with both blocks in the middle of a run: ENC with two pending fields and tokens, DEC inside a control byte. -/
def busy : State :=
  { (decAt un (df 0x61#8) 0x3F#8 4#4 [.byte 0x01#8, .eof]) with
    enc := { encAt (df 0x04#8) (df 0x01#8) 0b000000#10 6#4 0x02#8 0x04#8 0x01#8 3#3 with inp := [.byte 0x00#8, .endTok] } }

/-- The two blocks after their runs, with tokens still offered. -/
def bothDone : State :=
  { (decAt (df 1#8) (df 2#8) 0x33#8 0#4 [.byte 7#8]) with
    host := []
    enc := { encAt (df 0#8) (df 0#8) 0#10 0#4 1#8 2#8 3#8 0#3 with phase := .done, inp := [.byte 7#8] } }.onDec
      fun d => { d with phase := .done, status := .sentinel }

theorem witness_ResetRegistersHoldTheirResetValues : (0x00#8 : Byte) ≠ 0x01#8 ∧ (0x02#8 : Byte) ≠ 0x01#8 := by decide

theorem witness_RstTakesABlockToItsResetValues :
    (busy.onEnc fun e => { e with rst := true }).enc.rst = true ∧ (busy.onDec fun d => { d with rst := true }).dec.rst = true := by
  decide

theorem witness_OnlyResetLeavesDone :
    nextIs (step bothDone) (fun _ => true) = true ∧ bothDone.enc.phase = .done ∧ bothDone.enc.rst = false
      ∧ bothDone.dec.phase = .done ∧ bothDone.dec.rst = false := by decide

theorem witness_TokensMoveOnlyWhileReady :
    (nextIs (encTurn busy) (fun _ => true) = true ∧ encInReady busy.enc = true ∧ busy.enc.inp ≠ [])
      ∧ (nextIs (encTurn bothDone) (fun _ => true) = true ∧ encInReady bothDone.enc = false)
      ∧ (nextIs (encTurn State.reset) (fun _ => true) = true ∧ encInReady State.reset.enc = true ∧ State.reset.enc.inp = [])
      ∧ (nextIs (decTurn busy) (fun _ => true) = true ∧ decInReady busy.dec = false)
      ∧ (nextIs (decTurn (decAt un un 0#8 0#4 [.byte 0x3D#8, .byte 0x1E#8])) (fun t => t.dec.inp == []) = true
          ∧ decInReady (decAt un un 0#8 0#4 [.byte 0x3D#8, .byte 0x1E#8]).dec = true)
      ∧ (nextIs (decTurn (decAt un un 0#8 0#4 [.byte 0x3D#8])) (fun t => t.dec.inp == []) = true
          ∧ decInReady (decAt un un 0#8 0#4 [.byte 0x3D#8]).dec = true)
      ∧ (nextIs (decTurn State.reset) (fun _ => true) = true ∧ decInReady State.reset.dec = true
          ∧ State.reset.dec.inp = []) := by decide

/-- Bytes wait at both ports: two at ENC's, of its end of input, and one at DEC's. -/
theorem witness_WaitingBytesMoveInOrderBeforeTheNextToken :
    let s : State := (busy.onEnc fun e => { e with outq := [7#8, 1#8], closing := true }).onDec fun d => { d with outq := [9#8] }
    let u : State := (s.onEnc fun e => { e with outq := [1#8], outReady := false }).onDec fun d => { d with outReady := false }
    (s.enc.rst = false ∧ s.enc.outq ≠ [] ∧ s.enc.outReady = true ∧ s.dec.rst = false ∧ s.dec.outq ≠ [] ∧ s.dec.outReady = true)
      ∧ (u.enc.rst = false ∧ u.enc.outq = [1#8] ∧ u.enc.outReady = false ∧ u.dec.rst = false ∧ u.dec.outq = [9#8]
        ∧ u.dec.outReady = false) := by decide

theorem witness_MovedBytesStayWithTheHost :
    nextIs (step { busy with host := [] }) (fun t => t.enc.out.length == 4 && t.dec.out == [0x61#8]) = true := by decide

theorem witness_StepRunsTheDecodedInstruction :
    (decMayStep busy = true ∧ decode (decCursor busy.dec) = .instr .rep1 ⟨0x3F#8, 2#4, [.byte 0x01#8, .eof]⟩)
      ∧ ({ busy with host := [] } : State).host = []
      ∧ nextIs (encTurn { busy with host := [] }) (fun t => decMayStep t
          && decode (decCursor t.dec) == .instr .rep1 ⟨0x3F#8, 2#4, [.byte 0x01#8, .eof]⟩) = true := by decide

theorem witness_PlacedTableWordRunsNext :
    decodeTableWord 8 0 = some (.lit 0#8) ∧ decodeTableWord 8 1 = some .sent ∧ decodeTableWord 8 5 = some (.modp 1#2)
      ∧ decodeTableWord 8 9 = some (.modp 0#2) ∧ decodeTableWord 8 255 = some .rep1
      ∧ nextIs (step (busy.withFetchWord 8 5)) (fun t => t.dec.out == [opt1 0x61#8] && t.enc == busy.enc) = true := by decide

theorem witness_EncAndDecShareNothing :
    nextIs (encTurn busy) (fun t => t.enc != busy.enc) = true ∧ nextIs (decTurn busy) (fun t => t.dec != busy.dec) = true := by decide

theorem witness_WaitingForATokenChangesNothing :
    decode ⟨0x00#8, 0#4, [.byte 0x3F#8]⟩ = .starved ⟨0x3F#8, 8#4, []⟩
      ∧ decode ⟨0x00#8, 0#4, [.byte 0x3F#8, .byte 1#8]⟩ = .instr (.lit 1#8) ⟨0x3F#8, 6#4, []⟩
      ∧ decode ⟨0x00#8, 0#4, [.byte 0x3F#8, .eof]⟩ = .ends .eofLit ⟨0x3F#8, 6#4, []⟩ := by decide

theorem witness_LitWritesItsLiteral : busy.dec.phase = .run := by decide

theorem witness_ModpWritesTheSelectedOption :
    busy.dec.phase = .run ∧ busy.dec.p1.isDef = true
      ∧ nextIs (exec (.modp 3#2) busy) (fun t => t.dec.out == [0x20#8]) = true := by decide

theorem witness_Rep2WritesTheSecondLastByte :
    (decAt (df 9#8) (df 7#8) 0#8 0#4 []).dec.phase = .run ∧ (decAt (df 9#8) (df 7#8) 0#8 0#4 []).dec.p0.isDef = true := by decide

theorem witness_Rep1WritesTheLastByte : busy.dec.phase = .run ∧ busy.dec.p1.isDef = true := by decide

theorem witness_SentStopsWithSentinel : State.reset.dec.phase = .run := by decide

theorem witness_UndefinedReferenceStops :
    (busy.dec.phase = .run ∧ busy.dec.p0.isDef = false)
      ∧ State.reset.dec.phase = .run ∧ State.reset.dec.p0.isDef = false ∧ State.reset.dec.p1.isDef = false := by decide

theorem witness_InstructionFrame :
    nextIs (exec (.lit 5#8) busy) (fun t => t.dec.out == [5#8]) = true
      ∧ nextIs (exec .rep2 busy) (fun t => t.dec.phase == .done) = true
      ∧ (bothDone.dec.phase = .done ∧ nextIs (exec .rep1 bothDone) (fun t => t == bothDone) = true) := by decide

theorem witness_ControlByteFetch :
    (decMayStep (decAt un un 0#8 0#4 [.eof]) = true ∧ decMayStep (decAt un un 0#8 0#4 [.byte 0x01#8]) = true
        ∧ decMayStep (decAt un un 0#8 0#4 [.byte 0x02#8]) = true ∧ (0x02#8 : Byte) ≠ 0x01#8)
      ∧ (decMayStep (decAt un (df 1#8) 0x0D#8 2#4 [.eof]) = true ∧ (0x0D#8 : Byte).extractLsb' 0 2 = 0b01#2
        ∧ decMayStep (decAt un (df 1#8) 0x0D#8 2#4 [.byte 0x01#8]) = true
        ∧ decMayStep (decAt un (df 1#8) 0x0D#8 2#4 [.byte 0x00#8]) = true ∧ (0x00#8 : Byte) ≠ 0x01#8) := by decide

theorem witness_SlotsAreReadMostSignificantPairFirst :
    slotAt 0x80#8 8#4 = 0b10#2 ∧ slotAt 0x02#8 2#4 = 0b10#2 ∧ slotAt 0xC0#8 8#4 = 0b11#2 ∧ slotAt 0x03#8 2#4 = 0b11#2
      ∧ slotAt 0x40#8 8#4 = 0b01#2 ∧ slotAt 0x04#8 4#4 = 0b01#2 ∧ (4#4 : BitVec 4) ≠ 2#4 := by decide

theorem witness_LiteralStep :
    (decMayStep (decAt un un 0x3F#8 8#4 [.eof]) = true ∧ (decAt un un 0x3F#8 8#4 [.eof]).dec.rem ≠ 0#4
        ∧ slotAt 0x3F#8 8#4 = 0b00#2)
      ∧ (decMayStep (decAt un (df 1#8) 0x00#8 2#4 [.byte 0x01#8]) = true
        ∧ (decAt un (df 1#8) 0x00#8 2#4 [.byte 0x01#8]).dec.rem ≠ 0#4 ∧ slotAt 0x00#8 2#4 = 0b00#2) := by decide

theorem witness_StopsArePrecise :
    (busy.dec.rst = false ∧ busy.dec.phase = .run ∧ nextIs (decTurn busy) (fun t => t.dec.phase == .run) = true)
      ∧ (State.reset.dec.rst = false ∧ State.reset.dec.phase = .run
        ∧ nextIs (decTurn (decAt un un 0#8 0#4 [.byte 0xC0#8])) (fun t => t.dec.phase == .done) = true) := by decide

theorem witness_HistoryHoldsTheLastTwoBytes :
    DecState.reset.phase = .run ∧ DecState.reset.p0.isDef = false ∧ DecState.reset.p1.isDef = false
      ∧ EncState.reset.p0.isDef = false ∧ EncState.reset.p1.isDef = false := by decide

theorem witness_OptionsOfAByte : OptByte.undef.isDef = false ∧ 0 < 8 ∧ 7 < 8 := by decide

/-- REP1; REP2; MODP at index 0 of two (ENC-6), at index 3; LIT with and without a history. -/
theorem witness_EncoderChoosesInOrder :
    df 0x61#8 = OptByte.ofByte 0x61#8
      ∧ ((df 0x20#8).val ≠ 0x10#8 ∧ df 0x10#8 = OptByte.ofByte 0x10#8)
      ∧ ((df 0xAB#8).val ≠ 0xFF#8 ∧ OptByte.undef.isDef = false ∧ (df 0xAB#8).isDef = true ∧ opt0 0xAB#8 = 0xFF#8
        ∧ opt2 0xAB#8 = 0xFF#8)
      ∧ ((df 0x3E#8).val ≠ 0x1E#8 ∧ opt3 0x3E#8 = 0x1E#8 ∧ opt0 0x3E#8 ≠ 0x1E#8 ∧ opt1 0x3E#8 ≠ 0x1E#8
        ∧ opt2 0x3E#8 ≠ 0x1E#8)
      ∧ ((df 0x10#8).val ≠ 0x61#8 ∧ opt0 0x10#8 ≠ 0x61#8 ∧ opt1 0x10#8 ≠ 0x61#8 ∧ opt2 0x10#8 ≠ 0x61#8
        ∧ opt3 0x10#8 ≠ 0x61#8) := by decide

/-- Fewer than four slots; exactly four; four and a selector left over. -/
theorem witness_PassPacksFieldsIntoChunks :
    (encRest EncState.reset = true
        ∧ (accSlots EncState.reset ++ slotsOf (encChoose un un 0x1E#8)).length < 4)
      ∧ (encRest busy.enc = true ∧ accSlots busy.enc ++ slotsOf (encChoose (df 0x04#8) (df 0x01#8) 0x00#8)
        = [0b00#2, 0b00#2, 0b00#2, 0b01#2, 0b01#2])
      ∧ accSlots busy.enc ++ slotsOf (encChoose (df 0x04#8) (df 0x01#8) 0x01#8) = [0b00#2, 0b00#2, 0b00#2, 0b11#2] := by decide

theorem witness_CollisionFlagIsStickyAndInert :
    nextIs (step { busy with enc := { busy.enc with coll := true } }) (fun _ => true) = true ∧ busy.enc.rst = false := by decide

theorem witness_ByteStepMakesOnePass :
    encRest busy.enc = true ∧ encInReady busy.enc = true ∧ busy.enc.inp = [.byte 0x00#8, .endTok] := by decide

/-- With nothing pending and with six bits pending; with the host ready and not ready. -/
theorem witness_EndStepPadsAndWritesTheSentinel :
    let full : EncState := { busy.enc with inp := [.endTok] }
    let empty : EncState := { EncState.reset with inp := [.endTok], outReady := false }
    (encRest full = true ∧ encInReady full = true ∧ full.inp = [.endTok] ∧ full.outReady = true)
      ∧ (encRest empty = true ∧ encInReady empty = true ∧ empty.inp = [.endTok] ∧ empty.accn = 0#4
        ∧ empty.outReady = false) := by decide

/-- A row of each kind: PAD-1, PAD-2 (n = 2), PAD-3, PAD-4 (n = 4), PAD-5, PAD-6 (n = 6), and n = 0. -/
theorem witness_PadPassTable :
    let row (p0 p1 : OptByte) (acc : BitVec 10) (accn : BitVec 4) (litn : BitVec 3) : EncState := encAt p0 p1 acc accn 0x61#8 0x62#8 0x63#8 litn
    let twoBit (e : EncState) : Bool := (slotsOf (encChoose e.p0 e.p1 0x00#8)).length == 1
    (encRest (row (df 0x64#8) (df 0x65#8) 0#10 2#4 1#3) && twoBit (row (df 0x64#8) (df 0x65#8) 0#10 2#4 1#3)
      && encRest (row un (df 0x55#8) 0#10 2#4 1#3) && !twoBit (row un (df 0x55#8) 0#10 2#4 1#3)
      && encRest (row (df 0x61#8) (df 0x62#8) 0#10 4#4 2#3) && twoBit (row (df 0x61#8) (df 0x62#8) 0#10 4#4 2#3)
      && encRest (row (df 0x61#8) (df 0x55#8) 0#10 4#4 2#3) && !twoBit (row (df 0x61#8) (df 0x55#8) 0#10 4#4 2#3)
      && encRest (row (df 0x62#8) (df 0x63#8) 0#10 6#4 3#3) && twoBit (row (df 0x62#8) (df 0x63#8) 0#10 6#4 3#3)
      && encRest (row (df 0x61#8) (df 0x55#8) 0b001100#10 6#4 2#3) && !twoBit (row (df 0x61#8) (df 0x55#8) 0b001100#10 6#4 2#3)
      && encRest EncState.reset) = true := by decide

theorem witness_BytesWrittenPerStep :
    (encRest busy.enc = true ∧ busy.enc.rst = false
        ∧ nextIs (encTurn { busy with enc := { busy.enc with inp := [.endTok] } }) (fun t => t.enc.out.length == 6) = true)
      ∧ busy.dec.rst = false ∧ nextIs (decTurn busy) (fun t => t.dec.out.length == 1) = true := by decide

theorem witness_DisassemblyInvertsAssembly :
    let fields : List Instr := [.lit 0x61#8, .rep1, .rep1, .modp 2#2, .rep2, .lit 0x01#8, .rep1]
    (∀ i ∈ fields, i ≠ .sent) ∧ Listing.collisionFree fields = true
      ∧ assemble (fields ++ [.sent]) = some [0x3D#8, 0x61#8, 0xA3#8, 0x01#8, 0x01#8]
      ∧ assemble fields = some [0x3D#8, 0x61#8, 0xA3#8, 0x01#8] := by decide

theorem witness_EveryStepKeepsRest : atRest { busy with host := [] } = true
    ∧ nextIs (step { busy with host := [] }) (fun t => t != busy) = true
    ∧ atRest bothDone = true ∧ atRest (decAt un un 0x3F#8 8#4 []) = true := by decide

theorem witness_EveryStepFromRestCompletes : atRest busy = true ∧ atRest bothDone = true := by decide

/-- The listing of program P1. -/
theorem witness_DecoderRunsTheListing :
    let fields : List Instr := [.lit 0x1E#8, .rep1, .rep1, .modp 0#2, .rep1, .lit 0#8, .rep1]
    Listing.wellFormed (fields ++ [.sent]) = true ∧ Listing.collisionFree fields = true
      ∧ assemble (fields ++ [.sent]) = some [0x3D#8, 0x1E#8, 0x33#8, 0x00#8, 0x01#8] := by decide

/-- R123 on ENC-C1: no field stands before the collision. On a listing whose MODP in slot 3 has its selector in a collision, the three
fields before that MODP do. -/
theorem witness_DecodingAnEncodedStreamGivesAPrefix :
    fieldsBeforeCollision (fieldsFrom un un (padded [0x02#8, 0x04#8, 0x01#8])) = []
      ∧ fieldsBeforeCollision [.lit 0x61#8, .rep1, .rep1, .modp 0#2, .lit 1#8, .lit 2#8, .modp 1#2, .rep1, .rep1, .rep1]
        = [.lit 0x61#8, .rep1, .rep1]
      ∧ nextIs (encodeRun [0x02#8, 0x04#8, 0x01#8]) (fun t => t.enc.coll) = true := by decide

/-- W2: `61 61 61 61` has no collision. -/
theorem witness_RoundTripWithoutCollision :
    nextIs (encodeRun [0x61#8, 0x61#8, 0x61#8, 0x61#8])
      (fun t => t.enc.coll == false && t.enc.out == [0x3F#8, 0x61#8, 0x01#8]) = true := by decide

end Sys2Proof.Tests
end

section
/-! The family of the state: the registers after reset (R32), and the collision flag (R21). -/

namespace Sys2Proof.Proofs

open Sys2Proof.Machine

/-! ### Where DEC's first step leaves `dec_ctrl` (R112, R113) -/

/-- The cursor an answer of the decoder leaves DEC at. -/
def answerCursor : Decoded → Cursor
  | .instr _ after => after
  | .ends _ after => after
  | .starved waiting => waiting

/-- Away from the last slot a field reads no further control byte: only a selector behind slot 3 does (R57, R116). -/
theorem decodeField_keeps_ctrl {c : Cursor} (h : c.rem - 2#4 ≠ 0#4) :
    (answerCursor (decodeField c)).ctrl = c.ctrl := by
  rcases decodeField_cases c with ⟨_, hd⟩ | ⟨_, hd⟩ | ⟨_, hd⟩ | ⟨_, hd⟩ <;> rw [hd]
  case inl =>
    unfold readLiteral
    split <;> rfl
  case inr.inl =>
    rw [readSelector, if_neg (by simpa using h)]
    rfl
  all_goals rfl

/-- An output byte leaves the control byte alone. -/
@[simp] theorem decEmit_ctrl (v : Byte) (d : DecState) : (decEmit v d).ctrl = d.ctrl := by
  cases hp : d.phase with
  | run => rcases decOutWrite_cases v d with ⟨_, _, hw⟩ | ⟨_, hw⟩ <;> simp [decEmit_run v hp, hw]
  | done => rw [decEmit_done v hp]

/-- A stop leaves the control byte alone (R120). -/
@[simp] theorem decStop_ctrl (why : DecStatus) (d : DecState) : (decStop why d).ctrl = d.ctrl := by
  cases hp : d.phase with
  | run => rw [decStop_run why hp]
  | done => rw [decStop_done why hp]

/-- Whatever the decoder answers, DEC has a next state, and its control byte is the one the decoder stopped at. -/
theorem decRun_next_ctrl (a : Decoded) (s : State) :
    ∃ t, decRun a s = .next t ∧ t.dec.ctrl = (answerCursor a).ctrl := by
  cases a with
  | instr i after =>
    obtain ⟨f, hf, ⟨v, rfl⟩ | ⟨why, _, rfl⟩⟩ := exec_next i (s.onDec (decMoveTo after))
    all_goals exact ⟨_, hf, by simp [answerCursor]⟩
  | ends why after => exact ⟨_, rfl, by simp [answerCursor]⟩
  | starved waiting => exact ⟨_, rfl, rfl⟩

/-! ### DEC's first step after reset (R32, R112) -/

/-- Right after reset, with tokens offered to DEC alone, the machine's step is DEC's, from an empty control byte. -/
theorem step_reset_dec_offered (inp : List DecToken) :
    step { State.reset with dec := { State.reset.dec with inp := inp } }
      = decRun (decode ⟨0#8, 0#4, inp⟩) { State.reset with dec := { State.reset.dec with inp := inp } } :=
  rfl

/-- Settles O1: the registers by evaluation, DEC's first step by the fetch at the slot boundary that `dec_rem = 0` is. -/
theorem resetRegistersHoldTheirResetValues : Obligations.ResetRegistersHoldTheirResetValues := by
  refine ⟨rfl, rfl, rfl, rfl, rfl, rfl, rfl, rfl, rfl, rfl, rfl, rfl, rfl, rfl, fun c rest => ⟨?_, ?_, ?_⟩⟩
  · intro hc
    have hload : decode ⟨0#8, 0#4, .byte c :: rest⟩ = decodeField ⟨c, 8#4, rest⟩ := decode_loaded 0#8 rest hc
    have hctrl : (answerCursor (decodeField ⟨c, 8#4, rest⟩)).ctrl = c :=
      decodeField_keeps_ctrl (c := ⟨c, 8#4, rest⟩) (by simp)
    rw [step_reset_dec_offered, hload]
    obtain ⟨t, ht, htc⟩ := decRun_next_ctrl (decodeField ⟨c, 8#4, rest⟩)
      { State.reset with dec := { State.reset.dec with inp := .byte c :: rest } }
    exact ⟨t, ht, htc.trans hctrl, hload.trans (decode_inside (by simp)).symm⟩
  · rw [step_reset_dec_offered]
    exact ⟨_, rfl, rfl, rfl⟩
  · rw [step_reset_dec_offered]
    exact ⟨_, rfl, rfl, rfl⟩

/-! ### Operations that raise the collision flag and do nothing else with it (R21) -/

/-- ENC with the given collision flag. -/
def withColl (flag : Bool) (e : EncState) : EncState := { e with coll := flag }

@[simp] theorem withColl_coll (flag : Bool) (e : EncState) : (withColl flag e).coll = flag := rfl
@[simp] theorem withColl_self (e : EncState) : withColl e.coll e = e := rfl

/-- What R21 says of an operation of ENC: whether it raises the flag, and all else it does, is the same for either value the
flag had before; and it lowers no flag. -/
def OnlyRaisesColl (f : EncState → EncState) : Prop :=
  ∀ e, ∃ raised, ∀ flag, f (withColl flag e) = withColl (flag || raised) (f e)

theorem OnlyRaisesColl.of_commutes {f : EncState → EncState}
    (h : ∀ flag e, f (withColl flag e) = withColl flag (f e)) : OnlyRaisesColl f :=
  fun e => ⟨false, fun flag => by rw [h, Bool.or_false]⟩

theorem OnlyRaisesColl.comp {f g : EncState → EncState} (hg : OnlyRaisesColl g) (hf : OnlyRaisesColl f) :
    OnlyRaisesColl (g ∘ f) := by
  intro e
  obtain ⟨raisedF, hf⟩ := hf e
  obtain ⟨raisedG, hg⟩ := hg (f e)
  exact ⟨raisedF || raisedG, fun flag => by simp only [Function.comp_apply, hf, hg, Bool.or_assoc]⟩

/-- Such an operation never clears the flag. -/
theorem OnlyRaisesColl.sticky {f : EncState → EncState} (hf : OnlyRaisesColl f) {e : EncState}
    (h : e.coll = true) : (f e).coll = true := by
  obtain ⟨raised, hf⟩ := hf e
  calc (f e).coll = (f (withColl e.coll e)).coll := by rw [withColl_self]
    _ = (e.coll || raised) := by rw [hf, withColl_coll]
    _ = true := by rw [h, Bool.true_or]

theorem encOutWrite_withColl (bytes : List Byte) (flag : Bool) (e : EncState) :
    encOutWrite bytes (withColl flag e) = withColl flag (encOutWrite bytes e) := by
  rcases encOutWrite_cases bytes e with ⟨hr, hq, h⟩ | ⟨hn, h⟩ <;> rw [h]
  · exact encOutWrite_ready bytes hr hq
  · rcases encOutWrite_cases bytes (withColl flag e) with ⟨hr, hq, _⟩ | ⟨_, h'⟩
    · exact absurd hn (by simpa [withColl] using And.intro hr hq)
    · exact h'

theorem encAppendAll_withColl (slots : List Slot) (flag : Bool) (e : EncState) :
    encAppendAll slots (withColl flag e) = withColl flag (encAppendAll slots e) :=
  List.foldl_hom (g₁ := fun e v => encAppend v e) (g₂ := fun e v => encAppend v e) (withColl flag) fun _ _ => rfl

theorem encPushAll_withColl (literals : List Byte) (flag : Bool) (e : EncState) :
    encPushAll literals (withColl flag e) = withColl flag (encPushAll literals e) :=
  List.foldl_hom (g₁ := fun e b => encPushLiteral b e) (g₂ := fun e b => encPushLiteral b e) (withColl flag)
    fun _ _ => rfl

theorem encRecord_withColl (i : Instr) (flag : Bool) (e : EncState) :
    encRecord i (withColl flag e) = withColl flag (encRecord i e) := by
  rw [encRecord, encAppendAll_withColl, encPushAll_withColl, encRecord]

theorem encClose_withColl (flag : Bool) (e : EncState) :
    encClose (withColl flag e) = withColl flag (encClose e) := by
  by_cases hq : e.outq.isEmpty <;> simp [encClose, withColl, hq]

/-- A flush raises the flag exactly for the control byte 0x01 (R97). -/
theorem encFlush_withColl (flag : Bool) (e : EncState) :
    encFlush (withColl flag e) = withColl (flag || isCollision (encControl e)) (encFlush e) := by
  unfold encFlush
  rw [← encOutWrite_withColl]
  rfl

theorem encFlush_onlyRaisesColl : OnlyRaisesColl encFlush :=
  fun e => ⟨isCollision (encControl e), fun flag => encFlush_withColl flag e⟩

theorem encFlushFull_onlyRaisesColl : OnlyRaisesColl encFlushFull := by
  intro e
  by_cases h : 8 ≤ e.accn.toNat
  · obtain ⟨raised, hr⟩ := encFlush_onlyRaisesColl e
    exact ⟨raised, fun flag => by
      rw [encFlushFull_of_le h, encFlushFull_of_le (e := withColl flag e) h, hr]⟩
  · have hlt : e.accn.toNat < 8 := Nat.lt_of_not_le h
    exact ⟨false, fun flag => by
      rw [encFlushFull_of_lt hlt, encFlushFull_of_lt (e := withColl flag e) hlt, Bool.or_false]⟩

/-- The flag is no input of the op-code choice (R88), so a pass records the same field for either value. -/
theorem encPass_onlyRaisesColl (b : Byte) : OnlyRaisesColl (encPass b) := by
  intro e
  have hrecord : OnlyRaisesColl (encRecord (encChoose e.p0 e.p1 b)) :=
    .of_commutes (encRecord_withColl (encChoose e.p0 e.p1 b))
  have hhistory : OnlyRaisesColl (encHistory b) := .of_commutes fun _ _ => rfl
  exact (encFlushFull_onlyRaisesColl.comp (hhistory.comp hrecord)) e

/-- Nor does it decide how many pad passes run (R98). -/
theorem encPad_onlyRaisesColl (fuel : Nat) : OnlyRaisesColl (encPad fuel) := by
  induction fuel with
  | zero => exact .of_commutes fun _ _ => rfl
  | succ fuel ih =>
    intro e
    by_cases h : e.accn = 0#4
    · exact ⟨false, fun flag => by simp [encPad, withColl, h]⟩
    · obtain ⟨raised, hr⟩ := (ih.comp (encPass_onlyRaisesColl Config.padByte)) e
      refine ⟨raised, fun flag => ?_⟩
      have hflag : (withColl flag e).accn ≠ 0#4 := h
      rw [encPad, encPad, if_neg h, if_neg hflag]
      exact hr flag

theorem encEnd_onlyRaisesColl : OnlyRaisesColl encEnd :=
  have hwrite : OnlyRaisesColl (encOutWrite [Config.sentinel]) := .of_commutes (encOutWrite_withColl _)
  (OnlyRaisesColl.of_commutes encClose_withColl).comp (hwrite.comp (encPad_onlyRaisesColl Config.padMax))

theorem encTake_onlyRaisesColl (tok : EncToken) : OnlyRaisesColl (encTake tok) := by
  cases tok with
  | byte b => exact encPass_onlyRaisesColl b
  | endTok => exact encEnd_onlyRaisesColl

/-! ### The flag along the machine's steps (R21) -/

/-- ENC's own step clears the flag only under reset (R151). -/
theorem encTurn_keeps_coll {s t : State} (h : encTurn s = .next t) (hr : s.enc.rst = false)
    (hc : s.enc.coll = true) : t.enc.coll = true := by
  rcases encTurn_cases h with ⟨hr', _⟩ | ⟨_, _, rfl⟩ | ⟨_, _, rfl⟩ | ⟨_, _, rfl⟩ | ⟨tok, rest, _, _, _, rfl⟩ | ⟨_, _, _, rfl⟩
  case inl => simp [hr] at hr'
  case inr.inr.inr.inr.inl => exact (encTake_onlyRaisesColl tok).sticky hc
  all_goals exact hc

/-- DEC's step leaves ENC alone (R143). -/
theorem decTurn_enc {s t : State} (h : decTurn s = .next t) : t.enc = s.enc := by
  rcases decTurn_cases h with ⟨_, rfl⟩ | ⟨_, _, rfl⟩ | ⟨_, _, rfl⟩ | ⟨_, _, rfl⟩ | ⟨_, _, _, _, hrun⟩
  case inr.inr.inr.inr =>
    rcases decRun_cases hrun with ⟨_, _, _, _, rfl, _⟩ | ⟨_, _, _, rfl⟩ | ⟨_, _, rfl⟩ <;> rfl
  all_goals rfl

/-- No action of the host clears the flag: driving `rst` does so only at the block's next step (R151). -/
theorem hostAct_keeps_coll {a : HostAction} {s t : State} (h : hostAct a s = .next t) (hr : s.enc.rst = false)
    (hc : s.enc.coll = true) : t.enc.coll = true := by
  cases a with
  | letEnc => exact encTurn_keeps_coll h hr hc
  | letDec => rw [decTurn_enc h, hc]
  | takeEnc =>
    obtain rfl := Host.Outcome.next.inj h
    by_cases hv : encOutValid s.enc <;> simp [hv, hc]
  | dropEnc =>
    obtain rfl := Host.Outcome.next.inj h
    simp [hr, hc]
  | offerEnc _ | offerDec _ | driveEncRst _ | driveDecRst _ | driveEncReady _ | driveDecReady _ | takeDec | dropDec =>
    obtain rfl := Host.Outcome.next.inj h
    exact hc

theorem step_keeps_coll {s t : State} (h : step s = .next t) (hr : s.enc.rst = false)
    (hc : s.enc.coll = true) : t.enc.coll = true := by
  cases hh : s.host with
  | nil =>
    obtain ⟨m, henc, hdec⟩ := step_of_host_nil hh h
    rw [decTurn_enc hdec]
    exact encTurn_keeps_coll henc hr hc
  | cons a rest =>
    rw [step_of_host_cons hh] at h
    exact hostAct_keeps_coll h hr hc

/-- Settles O27: each operation behind a token only raises the flag, and no step of the machine but reset clears it. -/
theorem collisionFlagIsStickyAndInert : Obligations.CollisionFlagIsStickyAndInert := by
  refine ⟨fun e => ?_, fun s t => step_keeps_coll, fun tok e flag => ?_⟩
  · obtain ⟨_, _, _, hcoll, _⟩ := encFlush_registers e
    exact hcoll
  · obtain ⟨raised, h⟩ := encTake_onlyRaisesColl tok e
    exact ⟨flag || raised, h flag⟩

end Sys2Proof.Proofs
end

section
/-! The four options of the option deriver, bit by bit (R78 to R81): each is `b` joined or met with a neighbouring bit. -/

namespace Sys2Proof.Proofs

open Sys2Proof.Machine

/-! ### The neighbour a shift by one place brings to bit `k` (R10) -/

/-- The lower neighbour; bit 0 has none, and what leaves bit 7 is lost. -/
theorem getLsbD_shiftLeft_one (b : Byte) {k : Nat} (hk : k < 8) :
    (b <<< 1).getLsbD k = (decide (1 ≤ k) && b.getLsbD (k - 1)) := by
  simp only [BitVec.getLsbD_shiftLeft, hk, decide_true, Bool.true_and, ← decide_not, Nat.not_lt]

/-- The upper neighbour; above bit 7 it reads as 0. -/
theorem getLsbD_shr1 (b : Byte) (k : Nat) : (shr1 b).getLsbD k = b.getLsbD (k + 1) := by
  rw [shr1, BitVec.getLsbD_ushiftRight, Nat.add_comm]

/-! ### The bits of each option -/

theorem opt0_getLsbD (b : Byte) {k : Nat} (hk : k < 8) :
    (opt0 b).getLsbD k = (b.getLsbD k || (decide (1 ≤ k) && b.getLsbD (k - 1))) := by
  rw [opt0_eq, BitVec.getLsbD_or, getLsbD_shiftLeft_one b hk]

theorem opt1_getLsbD (b : Byte) {k : Nat} (hk : k < 8) :
    (opt1 b).getLsbD k = (b.getLsbD k && (decide (1 ≤ k) && b.getLsbD (k - 1))) := by
  rw [opt1_eq, BitVec.getLsbD_and, getLsbD_shiftLeft_one b hk]

theorem opt2_getLsbD (b : Byte) (k : Nat) :
    (opt2 b).getLsbD k = (b.getLsbD k || b.getLsbD (k + 1)) := by
  rw [opt2, BitVec.getLsbD_or, getLsbD_shr1]

theorem opt3_getLsbD (b : Byte) (k : Nat) :
    (opt3 b).getLsbD k = (b.getLsbD k && b.getLsbD (k + 1)) := by
  rw [opt3, BitVec.getLsbD_and, getLsbD_shr1]

/-- Settles O23: the list by the two cases of `ODR` (R76), the options by the neighbour each shift brings to a bit. -/
theorem optionsOfAByte : Obligations.OptionsOfAByte :=
  ⟨odr_ofByte, fun _ => odr_undef, fun _ => rfl,
    fun b k hk => ⟨opt0_getLsbD b hk, opt1_getLsbD b hk, opt2_getLsbD b k, opt3_getLsbD b k⟩⟩

end Sys2Proof.Proofs
end

section
/-! ENC as the packing of slots and literals into chunks (R93 to R97), and its run over a whole raw sequence (R104). -/

namespace Sys2Proof.Proofs

open Sys2Proof.Machine Sys2Proof.Safety

/-! ### The slots and literals ENC holds (R17 to R19) -/

/-- The accumulator holds exactly `slots`, oldest first, and the literal buffer exactly `lits`. -/
structure EncHolds (slots : List Slot) (lits : List Byte) (e : EncState) : Prop where
  accn_eq : e.accn.toNat = 2 * slots.length
  slots_eq : accSlots e = slots
  litn_eq : e.litn.toNat = lits.length
  lits_eq : encPending e = lits

theorem accSlots_length (e : EncState) : (accSlots e).length = e.accn.toNat / 2 := by
  simp [accSlots]

theorem encPending_length {e : EncState} (h : e.litn.toNat ≤ 4) : (encPending e).length = e.litn.toNat := by
  simp [encPending, h]

/-- Register values ENC can rest at are a whole number of slots, fewer than four, and at most three literals. -/
theorem encLegal_iff {e : EncState} :
    encLegal e = true ↔ e.accn.toNat = 2 * (accSlots e).length ∧ (accSlots e).length < 4 ∧ e.litn.toNat ≤ 3 := by
  simp only [encLegal, accSlots_length, Bool.and_eq_true, Bool.or_eq_true, beq_iff_eq, decide_eq_true_eq,
    ← BitVec.toNat_inj, BitVec.toNat_ofNat]
  omega

theorem EncHolds.of_encLegal {e : EncState} (h : encLegal e = true) : EncHolds (accSlots e) (encPending e) e := by
  obtain ⟨haccn, _, hlitn⟩ := encLegal_iff.mp h
  exact ⟨haccn, rfl, (encPending_length (by omega)).symm, rfl⟩

theorem EncHolds.legal {slots : List Slot} {lits : List Byte} {e : EncState} (h : EncHolds slots lits e)
    (hs : slots.length < 4) (hl : lits.length ≤ 3) : encLegal e = true :=
  encLegal_iff.mpr ⟨by rw [h.slots_eq, h.accn_eq], by rwa [h.slots_eq], by rwa [h.litn_eq]⟩

/-! ### What each operation makes of them -/

/-- The appended slot is the lowest pair of bits. -/
theorem extractLsb'_append_slot (x : BitVec 10) (v : Slot) :
    ((x <<< 2) ||| v.setWidth 10).extractLsb' 0 2 = v := by
  ext i hi
  simp [BitVec.getElem_extractLsb', hi]
  omega

/-- The slots before it stand one pair higher. -/
theorem extractLsb'_append_slot_succ (x : BitVec 10) (v : Slot) {k : Nat} (hk : k < 4) :
    ((x <<< 2) ||| v.setWidth 10).extractLsb' (2 * (k + 1)) 2 = x.extractLsb' (2 * k) 2 := by
  ext i hi
  have hv : v.getLsbD (2 * (k + 1) + i) = false := BitVec.getLsbD_of_ge _ _ (by omega)
  have hlt : 2 * (k + 1) + i < 10 := by omega
  have hge : ¬ 2 * (k + 1) + i < 2 := by omega
  have hsub : 2 * (k + 1) + i - 2 = 2 * k + i := by omega
  simp [BitVec.getElem_extractLsb', hv, hlt, hge, hsub]
  exact (BitVec.getLsbD_eq_getElem _).symm

theorem EncHolds.append {slots : List Slot} {lits : List Byte} {e : EncState} (v : Slot)
    (h : EncHolds slots lits e) (hs : slots.length ≤ 4) : EncHolds (slots ++ [v]) lits (encAppend v e) := by
  have haccn : (e.accn + 2#4).toNat = 2 * (slots.length + 1) := by
    rw [BitVec.toNat_add, h.accn_eq]
    simp
    omega
  refine ⟨by simpa using haccn, ?_, h.litn_eq, h.lits_eq⟩
  rw [← h.slots_eq]
  simp only [accSlots, encAppend_accn, encAppend_acc, haccn, h.accn_eq, Nat.mul_div_cancel_left _ Nat.two_pos,
    List.range_succ_eq_map, List.reverse_cons, List.map_append, ← List.map_reverse, List.map_map]
  congr 1
  · refine List.map_congr_left fun k hk => ?_
    rw [List.mem_reverse, List.mem_range] at hk
    exact extractLsb'_append_slot_succ _ _ (by omega)
  · simp [extractLsb'_append_slot]

theorem EncHolds.appendAll {lits : List Byte} (new : List Slot) {slots : List Slot} {e : EncState}
    (h : EncHolds slots lits e) (hs : slots.length + new.length ≤ 5) :
    EncHolds (slots ++ new) lits (encAppendAll new e) := by
  induction new generalizing slots e with
  | nil => rwa [List.append_nil]
  | cons v new ih =>
    rw [List.length_cons] at hs
    rw [List.append_cons]
    exact ih (h.append v (by omega)) (by simp; omega)

theorem EncHolds.pushLiteral {slots : List Slot} {lits : List Byte} {e : EncState} (b : Byte)
    (h : EncHolds slots lits e) (hl : lits.length ≤ 3) : EncHolds slots (lits ++ [b]) (encPushLiteral b e) := by
  have hlitn : (e.litn + 1#3).toNat = lits.length + 1 := by
    rw [BitVec.toNat_add, h.litn_eq]
    simp
    omega
  refine ⟨h.accn_eq, h.slots_eq, by simpa using hlitn, ?_⟩
  rw [← h.lits_eq]
  simp only [encPending, encPushLiteral_lit, encPushLiteral_litn, hlitn, h.litn_eq, List.take_add_one,
    Vector.toList_setIfInBounds, List.take_set]
  rw [List.set_eq_of_length_le (List.length_take_le _ _), List.getElem?_set_self (by simp; omega)]
  rfl

theorem EncHolds.pushAll {slots : List Slot} (new : List Byte) {lits : List Byte} {e : EncState}
    (h : EncHolds slots lits e) (hl : lits.length + new.length ≤ 4) :
    EncHolds slots (lits ++ new) (encPushAll new e) := by
  induction new generalizing lits e with
  | nil => rwa [List.append_nil]
  | cons b new ih =>
    rw [List.length_cons] at hl
    rw [List.append_cons]
    exact ih (h.pushLiteral b (by omega)) (by simp; omega)

/-- Four neighbouring slots are the byte that `enc_acc[k+7 : k]` is. -/
theorem packByte_extractLsb' (x : BitVec 10) (k : Nat) :
    packByte (x.extractLsb' (k + 6) 2) (x.extractLsb' (k + 4) 2) (x.extractLsb' (k + 2) 2) (x.extractLsb' k 2)
      = x.extractLsb' k 8 := by
  rw [packByte, BitVec.extractLsb'_append_extractLsb'_eq_extractLsb' (show k + 6 = k + 4 + 2 from rfl),
    BitVec.extractLsb'_append_extractLsb'_eq_extractLsb' (show k + 4 = k + 2 + 2 from rfl),
    BitVec.extractLsb'_append_extractLsb'_eq_extractLsb' rfl]

/-- A flush takes the four oldest slots as its control byte and leaves the rest, and all literals go with it (R95, R96). -/
theorem EncHolds.flush {s0 s1 s2 s3 : Slot} {spare : List Slot} {lits : List Byte} {e : EncState}
    (h : EncHolds (s0 :: s1 :: s2 :: s3 :: spare) lits e) (hs : spare.length ≤ 1) :
    encControl e = packByte s0 s1 s2 s3 ∧ EncHolds spare [] (encFlush e) := by
  obtain ⟨hacc, haccn, hlitn, _⟩ := encFlush_registers e
  have hslots := h.slots_eq
  have hpending : encPending (encFlush e) = [] := by simp [encPending, hlitn]
  have hcount := h.accn_eq
  match spare, hs with
  | [], _ =>
    have hn : e.accn = 8#4 := BitVec.eq_of_toNat_eq hcount
    simp [accSlots, hn, List.range_succ] at hslots
    obtain ⟨rfl, rfl, rfl, rfl⟩ := hslots
    refine ⟨?_, by simp [haccn, hn], by simp [accSlots, haccn, hn], by simp [hlitn], hpending⟩
    rw [packByte_extractLsb', encControl, hn]
    rfl
  | [s4], _ =>
    have hn : e.accn = 10#4 := BitVec.eq_of_toNat_eq hcount
    simp [accSlots, hn, List.range_succ] at hslots
    obtain ⟨rfl, rfl, rfl, rfl, rfl⟩ := hslots
    refine ⟨?_, by simp [haccn, hn], ?_, by simp [hlitn], hpending⟩
    · rw [packByte_extractLsb', encControl, hn]
      rfl
    · simp [accSlots, haccn, hacc, encLeftover, hn, BitVec.extractLsb'_and]
      exact BitVec.and_allOnes

/-! ### A pass (R88, R93 to R97) -/

/-- The field ENC chooses for `b` (R88). -/
def encField (b : Byte) (e : EncState) : Instr := encChoose e.p0 e.p1 b

/-- A pass up to its flush. -/
def encGather (b : Byte) (e : EncState) : EncState := encHistory b (encRecord (encField b e) e)

theorem encPass_eq (b : Byte) (e : EncState) : encPass b e = encFlushFull (encGather b e) := rfl

theorem literalsOf_length_le (i : Instr) : (literalsOf i).length ≤ (slotsOf i).length := by
  cases i <;> simp [literalsOf, slotsOf]

/-- ENC chooses no SENT, so its fields have at most two slots and one literal (R88 to R92). -/
theorem encField_size (b : Byte) (e : EncState) :
    (slotsOf (encField b e)).length ≤ 2 ∧ (literalsOf (encField b e)).length ≤ 1 := by
  unfold encField encChoose
  split
  · decide
  · split
    · decide
    · split <;> simp [slotsOf, literalsOf]

theorem encGather_frame (b : Byte) (e : EncState) :
    encWritten (encGather b e) = encWritten e ∧ (encGather b e).coll = e.coll
      ∧ (encGather b e).outq = e.outq ∧ (encGather b e).outReady = e.outReady := by
  obtain ⟨_, _, _, hcoll, _, _, hout, houtq, _, hready⟩ := encRecord_frame (encField b e) e
  simp [encGather, encWritten, hcoll, hout, houtq, hready]

section
variable {slots : List Slot} {lits : List Byte} {e : EncState} (b : Byte)

theorem EncHolds.gather (h : EncHolds slots lits e) (hs : slots.length ≤ 3) (hl : lits.length ≤ 3) :
    EncHolds (slots ++ slotsOf (encField b e)) (lits ++ literalsOf (encField b e)) (encGather b e) := by
  obtain ⟨hslots, hlits⟩ := encField_size b e
  have hrecord := (h.appendAll (slotsOf (encField b e)) (by omega)).pushAll (literalsOf (encField b e)) (by omega)
  exact ⟨hrecord.accn_eq, hrecord.slots_eq, hrecord.litn_eq, hrecord.lits_eq⟩

/-- With fewer than four slots gathered the pass ends there. -/
theorem EncHolds.pass_short (h : EncHolds slots lits e) (hs : slots.length ≤ 3) (hl : lits.length ≤ 3)
    (hshort : (slots ++ slotsOf (encField b e)).length < 4) : encPass b e = encGather b e := by
  rw [encPass_eq, encFlushFull_of_lt]
  rw [(h.gather b hs hl).accn_eq]
  omega

/-- With four it flushes them, and their literals. -/
theorem EncHolds.pass_full (h : EncHolds slots lits e) (hs : slots.length ≤ 3) (hl : lits.length ≤ 3)
    {s0 s1 s2 s3 : Slot} {spare : List Slot} (hfull : slots ++ slotsOf (encField b e) = s0 :: s1 :: s2 :: s3 :: spare) :
    encPass b e = encFlush (encGather b e) ∧ encControl (encGather b e) = packByte s0 s1 s2 s3
      ∧ EncHolds spare [] (encPass b e) := by
  have hgather := h.gather b hs hl
  rw [hfull] at hgather
  have hspare : spare.length ≤ 1 := by
    have hlen := congrArg List.length hfull
    have hfield := (encField_size b e).1
    simp only [List.length_append, List.length_cons] at hlen
    omega
  have hpass : encPass b e = encFlush (encGather b e) := by
    rw [encPass_eq, encFlushFull_of_le]
    simp only [hgather.accn_eq, List.length_cons]
    omega
  rw [hpass]
  exact ⟨rfl, hgather.flush hspare⟩

end

/-- Settles O26: what ENC holds after gathering the field, and what a flush makes of four slots. -/
theorem passPacksFieldsIntoChunks : Obligations.PassPacksFieldsIntoChunks := by
  intro e b hrest
  have hlegal : encLegal e = true := by
    simp only [encRest, Bool.and_eq_true] at hrest
    tauto
  obtain ⟨_, hs, hlitn⟩ := encLegal_iff.mp hlegal
  have hholds := EncHolds.of_encLegal hlegal
  have hl : (encPending e).length ≤ 3 := by rwa [← hholds.litn_eq]
  obtain ⟨hp0, hp1, hphase, _⟩ := encPass_frame b e
  obtain ⟨hwritten, hcoll, _⟩ := encGather_frame b e
  have hgather := hholds.gather b (by omega) hl
  refine ⟨hp0, hp1, hphase, fun hshort => ?_, fun s0 s1 s2 s3 spare hfull => ?_⟩
  · rw [hholds.pass_short b (by omega) hl hshort]
    exact ⟨hgather.slots_eq, hgather.lits_eq, hwritten, hcoll⟩
  · obtain ⟨hpass, hcontrol, hspare⟩ := hholds.pass_full b (by omega) hl hfull
    obtain ⟨_, _, _, hflushColl, _⟩ := encFlush_registers (encGather b e)
    refine ⟨hspare.slots_eq, hspare.lits_eq, ?_, ?_⟩
    · rw [hpass, encWritten_encFlush, hwritten, hcontrol, hgather.lits_eq]
      rfl
    · rw [hpass, hflushColl, hcoll, hcontrol]
      rfl

/-! ### ENC between two tokens while the host takes every byte -/

/-- ENC may take the next of the tokens `inp`, and what it writes moves at once. Each literal it holds belongs to a slot it holds
(R19). -/
structure EncReady (inp : List EncToken) (e : EncState) : Prop where
  inp_eq : e.inp = inp
  rst : e.rst = false
  phase : e.phase = .run
  outq : e.outq = []
  outReady : e.outReady = true
  holds : ∃ slots lits, EncHolds slots lits e ∧ slots.length < 4 ∧ lits.length ≤ slots.length

theorem encReady_reset (inp : List EncToken) : EncReady inp { EncState.reset with inp := inp } :=
  ⟨rfl, rfl, rfl, rfl, rfl, [], [], ⟨rfl, by simp [accSlots, EncState.reset], rfl, rfl⟩, by decide, by decide⟩

theorem EncReady.legal {inp : List EncToken} {e : EncState} (h : EncReady inp e) : encLegal e = true := by
  obtain ⟨slots, lits, hholds, hs, hl⟩ := h.holds
  exact hholds.legal hs (by omega)

theorem EncReady.take_token {tok : EncToken} {rest : List EncToken} {e : EncState} (h : EncReady (tok :: rest) e) :
    EncReady rest { e with inp := rest } := by
  obtain ⟨slots, lits, hholds, hcounts⟩ := h.holds
  exact ⟨rfl, h.rst, h.phase, h.outq, h.outReady, slots, lits,
    ⟨hholds.accn_eq, hholds.slots_eq, hholds.litn_eq, hholds.lits_eq⟩, hcounts⟩

theorem encFlush_outq {e : EncState} (hr : e.outReady = true) (hq : e.outq = []) : (encFlush e).outq = [] := by
  rw [encFlush, encOutWrite_ready]
  exacts [hq, hr, hq]

theorem encPass_outq (b : Byte) {e : EncState} (hr : e.outReady = true) (hq : e.outq = []) :
    (encPass b e).outq = [] := by
  obtain ⟨_, _, houtq, hready⟩ := encGather_frame b e
  rw [encPass_eq, encFlushFull]
  split
  · exact encFlush_outq (hready.trans hr) (houtq.trans hq)
  · exact houtq.trans hq

theorem exists_four_of_le_length {α : Type} {l : List α} (h : 4 ≤ l.length) :
    ∃ a b c d rest, l = a :: b :: c :: d :: rest := by
  match l, h with
  | a :: b :: c :: d :: rest, _ => exact ⟨a, b, c, d, rest, rfl⟩

theorem EncReady.pass {inp : List EncToken} {e : EncState} (b : Byte) (h : EncReady inp e) :
    EncReady inp (encPass b e) := by
  obtain ⟨_, _, hphase, _, hinp, hrst, hready⟩ := encPass_frame b e
  refine ⟨hinp.trans h.inp_eq, hrst.trans h.rst, hphase.trans h.phase, encPass_outq b h.outReady h.outq,
    hready.trans h.outReady, ?_⟩
  obtain ⟨slots, lits, hholds, hs, hl⟩ := h.holds
  by_cases hshort : (slots ++ slotsOf (encField b e)).length < 4
  · rw [hholds.pass_short b (by omega) (by omega) hshort]
    refine ⟨_, _, hholds.gather b (by omega) (by omega), hshort, ?_⟩
    rw [List.length_append, List.length_append]
    exact Nat.add_le_add hl (literalsOf_length_le _)
  · obtain ⟨s0, s1, s2, s3, spare, hfull⟩ := exists_four_of_le_length (Nat.le_of_not_lt hshort)
    obtain ⟨_, _, hspare⟩ := hholds.pass_full b (by omega) (by omega) hfull
    refine ⟨spare, [], hspare, ?_, Nat.zero_le _⟩
    have := encFlushFull_accn_lt (encGather b e)
    rw [← encPass_eq, hspare.accn_eq] at this
    omega

theorem EncReady.pad (fuel : Nat) {inp : List EncToken} {e : EncState} (h : EncReady inp e) :
    EncReady inp (encPad fuel e) := by
  induction fuel generalizing e with
  | zero => exact h
  | succ fuel ih =>
    rw [encPad]
    split
    · exact h
    · exact ih (h.pass Config.padByte)

/-- The end writes the sentinel behind the pad passes' bytes and goes to `DONE` at once (R98 to R100). -/
theorem EncReady.encEnd_eq {inp : List EncToken} {e : EncState} (h : EncReady inp e) :
    encEnd e = { encPad Config.padMax e with
      out := (encPad Config.padMax e).out ++ [Config.sentinel], phase := .done } := by
  have hpad := h.pad Config.padMax
  rw [encEnd, encOutWrite_ready _ hpad.outReady hpad.outq]
  simp [encClose, hpad.outq]

/-! ### The run over a raw sequence (R12, R87, R104) -/

theorem run_succ_of_step {s m : State} (k : Nat) (h : step s = .next m) : run (k + 1) s = run k m := by
  have hcore : Sys2Proof.core.step s = .next m := h
  simp only [run, Host.Core.run, hcore]
  rfl

/-- Right after reset and with nothing offered DEC waits, with every register as it was (R39). -/
theorem decTurn_reset {s : State} (h : s.dec = .reset) : decTurn s = .next s := by
  cases s
  subst h
  rfl

theorem EncReady.encTurn_eq {s : State} {tok : EncToken} {rest : List EncToken} (h : EncReady (tok :: rest) s.enc) :
    encTurn s = .next (s.onEnc fun e => encTake tok { e with inp := rest }) := by
  simp [encTurn, encOutValid, encInReady, h.rst, h.phase, h.outq, h.inp_eq, h.legal]

/-- While DEC waits, a step of the machine is ENC taking one token. -/
theorem EncReady.step_eq {s : State} {tok : EncToken} {rest : List EncToken} (hhost : s.host = [])
    (hdec : s.dec = .reset) (h : EncReady (tok :: rest) s.enc) :
    step s = .next (s.onEnc fun e => encTake tok { e with inp := rest }) := by
  rw [step, coreStep, hhost]
  simp only [bothTurns, h.encTurn_eq]
  exact decTurn_reset hdec

/-- One pass for each byte and then the end: as many steps as tokens. -/
theorem EncReady.run_eq (raw : List Byte) {s : State} (hhost : s.host = []) (hdec : s.dec = .reset)
    (h : EncReady (encTokens raw) s.enc) :
    ∃ e, EncReady [] e ∧ run (raw.length + 1) s = .next (s.onEnc fun _ => encEnd e) := by
  induction raw generalizing s with
  | nil => exact ⟨_, h.take_token, run_succ_of_step 0 (h.step_eq hhost hdec)⟩
  | cons b raw ih =>
    obtain ⟨e, hready, hrun⟩ := ih (s := s.onEnc fun e => encPass b { e with inp := encTokens raw }) hhost hdec
      (EncReady.pass b (EncReady.take_token h))
    exact ⟨e, hready, (run_succ_of_step _ (EncReady.step_eq hhost hdec h)).trans hrun⟩

/-- Settles O32: the empty sequence by evaluation, every other by the run that ends in `encEnd`. -/
theorem encodeCompletesOnEveryInput : Obligations.EncodeCompletesOnEveryInput := by
  refine ⟨⟨_, rfl, rfl, rfl⟩, fun raw => ?_⟩
  obtain ⟨e, hready, hrun⟩ := EncReady.run_eq raw (s := encodeStart raw) rfl rfl (encReady_reset _)
  have hpad := hready.pad Config.padMax
  refine ⟨_, hrun, ?_⟩
  simp only [encDone, onEnc_enc, onEnc_dec, hready.encEnd_eq]
  exact ⟨rfl, hpad.inp_eq, hpad.outq, List.getLast?_concat, rfl⟩

end Sys2Proof.Proofs
end

section
/-! The family of the decoder (42_decoder.md): DEC's step at the fetch of a control byte, at a slot and at a literal, and its
stops. -/

namespace Sys2Proof.Proofs

open Sys2Proof.Machine Sys2Proof.Safety

/-! ### The order of the slots in a control byte (R8, R113) -/

/-- The pair of bits each count of unconsumed bits stands for. -/
theorem slotAt_pairs (c : Byte) :
    slotAt c 8#4 = c.extractLsb' 6 2 ∧ slotAt c 6#4 = c.extractLsb' 4 2
      ∧ slotAt c 4#4 = c.extractLsb' 2 2 ∧ slotAt c 2#4 = c.extractLsb' 0 2 :=
  ⟨rfl, rfl, rfl, rfl⟩

/-- Above slot 3, the lowest pair, stand the other three slots. -/
theorem extractLsb'_packByte_above (s0 s1 s2 s3 : Slot) (k : Nat) :
    (packByte s0 s1 s2 s3).extractLsb' (k + 2) 2 = (s0 ++ s1 ++ s2).extractLsb' k 2 :=
  BitVec.extractLsb'_append_eq_of_le (by omega)

/-- What a packed control byte holds at its four pairs of bits. -/
theorem extractLsb'_packByte (s0 s1 s2 s3 : Slot) :
    (packByte s0 s1 s2 s3).extractLsb' 6 2 = s0 ∧ (packByte s0 s1 s2 s3).extractLsb' 4 2 = s1
      ∧ (packByte s0 s1 s2 s3).extractLsb' 2 2 = s2 ∧ (packByte s0 s1 s2 s3).extractLsb' 0 2 = s3 := by
  have habove := extractLsb'_packByte_above s0 s1 s2 s3
  refine ⟨(habove 4).trans ?_, (habove 2).trans ?_, (habove 0).trans ?_, ?_⟩
  · rw [BitVec.extractLsb'_append_eq_of_le (by decide)]
    exact BitVec.extractLsb'_append_eq_left
  · rw [BitVec.extractLsb'_append_eq_of_le (by decide)]
    exact BitVec.extractLsb'_append_eq_right
  all_goals exact BitVec.extractLsb'_append_eq_right

/-! ### The decoder at each op-code of a loaded control byte (R58, R113) -/

section
variable {c : Cursor} (hrem : c.rem ≠ 0#4)
include hrem

theorem decode_literal (hslot : slotAt c.ctrl c.rem = 0b00#2) : decode c = readLiteral c c.dropSlot := by
  rw [decode_inside hrem, decodeField, hslot]
  rfl

theorem decode_modifyPrev (hslot : slotAt c.ctrl c.rem = 0b01#2) : decode c = readSelector c c.dropSlot := by
  rw [decode_inside hrem, decodeField, hslot]
  rfl

theorem decode_repeatSecondLast (hslot : slotAt c.ctrl c.rem = 0b10#2) : decode c = .instr .rep2 c.dropSlot := by
  rw [decode_inside hrem, decodeField, hslot]
  rfl

theorem decode_repeatLast (hslot : slotAt c.ctrl c.rem = 0b11#2) : decode c = .instr .rep1 c.dropSlot := by
  rw [decode_inside hrem, decodeField, hslot]
  rfl

end

/-- A selector that stands in the same control byte needs no fetch (R116). -/
theorem readSelector_here (before : Cursor) {c : Cursor} (h : c.rem ≠ 0#4) :
    readSelector before c = selectorHere c := by
  rw [readSelector, if_neg h]

/-- Settles O18: the bits of `slotAt` and of `packByte`, and the decoder's equation for each op-code. -/
theorem slotsAreReadMostSignificantPairFirst : Obligations.SlotsAreReadMostSignificantPairFirst := by
  refine ⟨slotAt_pairs, extractLsb'_packByte, fun ctrl rem inp hrem => ?_⟩
  have hinside : rem ≠ 0#4 := by rcases hrem with rfl | rfl | rfl | rfl <;> decide
  refine ⟨fun hslot => decode_repeatSecondLast hinside hslot, fun hslot => decode_repeatLast hinside hslot,
    fun hslot hlast => ?_⟩
  have hmore : rem - 2#4 ≠ 0#4 := sub_ne_zero.mpr hlast
  have htwo : rem - 2#4 - 2#4 = rem - 4#4 := sub_sub rem 2#4 2#4
  rw [decode_modifyPrev hinside hslot, readSelector_here _ hmore, selectorHere, ← htwo]
  rfl

/-! ### DEC's step as one answer of the decoder (R111) -/

theorem decMayStep_iff {s : State} :
    decMayStep s = true ↔
      s.dec.rst = false ∧ s.dec.phase = .run ∧ s.dec.outq = [] ∧ decLegal s.dec = true := by
  simp [decMayStep, and_assoc]

theorem decTurn_of_mayStep {s : State} (h : decMayStep s = true) :
    decTurn s = decRun (decode (decCursor s.dec)) s := by
  obtain ⟨hrst, hphase, houtq, hlegal⟩ := decMayStep_iff.mp h
  simp [decTurn, decOutValid, hrst, hphase, houtq, hlegal]

/-- Every answer places the cursor anew, so where it stood before does not matter. -/
theorem decRun_onDec_decMoveTo (a : Decoded) (c : Cursor) (s : State) :
    decRun a (s.onDec (decMoveTo c)) = decRun a s := by
  cases a <;> rfl

section
variable {s : State} (hmay : decMayStep s = true)
include hmay

/-- A stream that ends inside a field stops the step, with the end token taken (R112, R116, R117). -/
theorem decTurn_stops_of_ends {why : StreamEnd} {after : Cursor}
    (h : decode (decCursor s.dec) = .ends why after) :
    ∃ t, decTurn s = .next t ∧ StopsWith (endStatus why) (s.onDec (decMoveTo after)) t := by
  obtain ⟨_, hphase, _⟩ := decMayStep_iff.mp hmay
  rw [decTurn_of_mayStep hmay, h]
  exact ⟨_, rfl, stopsWith_decStop (s := s.onDec (decMoveTo after)) _ hphase⟩

/-- A control byte 0x01 stops it with `SENTINEL`, wherever it is fetched (R119, R122). -/
theorem decTurn_stops_of_sent {after : Cursor} (h : decode (decCursor s.dec) = .instr .sent after) :
    ∃ t, decTurn s = .next t ∧ StopsWith .sentinel (s.onDec (decMoveTo after)) t := by
  obtain ⟨_, hphase, _⟩ := decMayStep_iff.mp hmay
  rw [decTurn_of_mayStep hmay, h]
  exact ⟨_, rfl, stopsWith_decStop (s := s.onDec (decMoveTo after)) _ hphase⟩

/-- A literal is written from the cursor behind it (R117). -/
theorem decTurn_writes_of_lit {v : Byte} {after : Cursor} (h : decode (decCursor s.dec) = .instr (.lit v) after) :
    ∃ t, decTurn s = .next t ∧ WritesByte v (s.onDec (decMoveTo after)) t := by
  obtain ⟨_, hphase, _⟩ := decMayStep_iff.mp hmay
  rw [decTurn_of_mayStep hmay, h]
  exact ⟨_, rfl, writesByte_decEmit (s := s.onDec (decMoveTo after)) v hphase⟩

end

/-! ### The fetch of a control byte (R112, R122) -/

section
variable {c : Cursor} {rest : List DecToken} (hrem : c.rem = 0#4)
include hrem

theorem decode_boundary_eof (hinp : c.inp = .eof :: rest) : decode c = .ends .eofCtrl { c with inp := rest } := by
  simp [decode, fetchCtrl, hrem, hinp]

theorem decode_boundary_sentinel (hinp : c.inp = .byte Config.sentinel :: rest) :
    decode c = .instr .sent { c with inp := rest } := by
  simp [decode, fetchCtrl, hrem, hinp]

/-- A loaded control byte is read on as if DEC had stood at its slot 0. -/
theorem decode_boundary_loaded {b : Byte} (hinp : c.inp = .byte b :: rest) (hb : b ≠ Config.sentinel) :
    decode c = decode ⟨b, 8#4, rest⟩ := by
  obtain ⟨ctrl, rem, inp⟩ := c
  subst hrem hinp
  rw [decode_loaded ctrl rest hb, decode_inside (by simp)]

variable (before : Cursor)

theorem readSelector_eof (hinp : c.inp = .eof :: rest) :
    readSelector before c = .ends .eofSel { c with inp := rest } := by
  simp [readSelector, fetchCtrl, hrem, hinp]

theorem readSelector_sentinel (hinp : c.inp = .byte Config.sentinel :: rest) :
    readSelector before c = .instr .sent { c with inp := rest } := by
  simp [readSelector, fetchCtrl, hrem, hinp]

/-- The selector is then slot 0 of the loaded control byte. -/
theorem readSelector_loaded {b : Byte} (hinp : c.inp = .byte b :: rest) (hb : b ≠ Config.sentinel) :
    readSelector before c = .instr (.modp (slotAt b 8#4)) ⟨b, 6#4, rest⟩ := by
  simp [readSelector, selectorHere, fetchCtrl, Cursor.dropSlot, hrem, hinp, hb]

end

/-- Settles O17: the decoder's answer for each token at either fetch, and what DEC's step makes of it. -/
theorem controlByteFetch : Obligations.ControlByteFetch := by
  intro s c rest hmay
  refine ⟨fun hrem => ⟨fun hinp => ?_, fun hinp => ?_, fun hinp hc => ?_⟩, fun hrem hslot => ?_⟩
  · exact decTurn_stops_of_ends hmay (decode_boundary_eof hrem hinp)
  · exact decTurn_stops_of_sent hmay (decode_boundary_sentinel hrem hinp)
  · obtain ⟨hrst, hphase, houtq, _⟩ := decMayStep_iff.mp hmay
    have hmay' : decMayStep (s.onDec (decMoveTo ⟨c, 8#4, rest⟩)) = true :=
      decMayStep_iff.mpr ⟨hrst, hphase, houtq, rfl⟩
    calc decTurn s = decRun (decode ⟨c, 8#4, rest⟩) s := by
          rw [decTurn_of_mayStep hmay, decode_boundary_loaded hrem hinp hc]
      _ = decTurn (s.onDec (decMoveTo ⟨c, 8#4, rest⟩)) := by
          rw [decTurn_of_mayStep hmay', decRun_onDec_decMoveTo]
          rfl
  · have hinside : (decCursor s.dec).rem ≠ 0#4 := by simp [hrem]
    have hempty : s.dec.rem - 2#4 = 0#4 := by rw [hrem]; rfl
    have hmodp : slotAt s.dec.ctrl s.dec.rem = 0b01#2 := by rw [hrem]; exact hslot
    have hdecode := decode_modifyPrev hinside hmodp
    rw [← hempty]
    refine ⟨fun hinp => ?_, fun hinp => ?_, fun hinp hc => ?_⟩
    · exact decTurn_stops_of_ends hmay (hdecode.trans (readSelector_eof hempty _ hinp))
    · exact decTurn_stops_of_sent hmay (hdecode.trans (readSelector_sentinel hempty _ hinp))
    · rw [decTurn_of_mayStep hmay, hdecode, readSelector_loaded hempty _ hinp hc]
      rfl

/-! ### The literal (R117) -/

theorem readLiteral_eof (before : Cursor) {c : Cursor} {rest : List DecToken} (hinp : c.inp = .eof :: rest) :
    readLiteral before c = .ends .eofLit { c with inp := rest } := by
  simp [readLiteral, hinp]

/-- No value of the byte is special, 0x01 included (R61). -/
theorem readLiteral_byte (before : Cursor) {c : Cursor} {rest : List DecToken} {v : Byte}
    (hinp : c.inp = .byte v :: rest) : readLiteral before c = .instr (.lit v) { c with inp := rest } := by
  simp [readLiteral, hinp]

/-- Settles O19: at a LIT slot the answer is read off the next token. -/
theorem literalStep : Obligations.LiteralStep := by
  intro s rest v hmay hrem hslot
  have hdecode : decode (decCursor s.dec) = readLiteral _ (decCursor s.dec).dropSlot := decode_literal hrem hslot
  refine ⟨fun hinp => ?_, fun hinp => ?_⟩
  · exact decTurn_stops_of_ends hmay (hdecode.trans (readLiteral_eof _ hinp))
  · exact decTurn_writes_of_lit hmay (hdecode.trans (readLiteral_byte _ hinp))

/-! ### Stops (R25, R120) -/

/-- An output byte is no stop: phase and status stay. -/
theorem decEmit_phase_status (v : Byte) (d : DecState) :
    (decEmit v d).phase = d.phase ∧ (decEmit v d).status = d.status := by
  cases hp : d.phase with
  | run => rcases decOutWrite_cases v d with ⟨_, _, hw⟩ | ⟨_, hw⟩ <;> simp [decEmit_run v hp, hw, hp]
  | done => simp [decEmit_done v hp, hp]

theorem endStatus_ne_none (why : StreamEnd) : endStatus why ≠ .none := by
  cases why <;> decide

/-- From `d` to `d'` DEC either runs on with its status, or is in `DONE` with a status, its output and its history kept. -/
def RunsOnOrStops (d d' : DecState) : Prop :=
  (d'.phase = .run ∧ d'.status = d.status) ∨
    (d'.phase = .done ∧ d'.status ≠ .none ∧ d'.out = d.out ∧ d'.outq = d.outq ∧ d'.p0 = d.p0 ∧ d'.p1 = d.p1)

theorem runsOnOrStops_decStop {why : DecStatus} (hwhy : why ≠ .none) (c : Cursor) {d : DecState}
    (h : d.phase = .run) : RunsOnOrStops d (decStop why (decMoveTo c d)) := by
  rw [decStop_run why (d := decMoveTo c d) h]
  exact .inr ⟨rfl, hwhy, rfl, rfl, rfl, rfl⟩

/-- Every DEC step from `RUN` without reset: only a stop leaves `RUN`, and it writes no byte. -/
theorem decTurn_runsOnOrStops {s t : State} (hrst : s.dec.rst = false) (hrun : s.dec.phase = .run)
    (h : decTurn s = .next t) : RunsOnOrStops s.dec t.dec := by
  rcases decTurn_cases h with ⟨hr, _⟩ | ⟨_, _, rfl⟩ | ⟨_, _, rfl⟩ | ⟨_, hp, _⟩ | ⟨_, _, _, _, hanswer⟩
  · simp [hrst] at hr
  · exact .inl ⟨hrun, rfl⟩
  · exact .inl ⟨hrun, rfl⟩
  · simp [hrun] at hp
  · rcases decRun_cases hanswer with
      ⟨_, after, _, _, rfl, ⟨v, rfl⟩ | ⟨why, hwhy, rfl⟩⟩ | ⟨why, after, _, rfl⟩ | ⟨_, _, rfl⟩
    · obtain ⟨hphase, hstatus⟩ := decEmit_phase_status v (decMoveTo after s.dec)
      exact .inl ⟨hphase.trans hrun, hstatus⟩
    · exact runsOnOrStops_decStop hwhy after hrun
    · exact runsOnOrStops_decStop (endStatus_ne_none why) after hrun
    · exact .inl ⟨hrun, rfl⟩

/-- Settles O20: `decStop` by its own rule, a step of DEC by the two ways it can end. -/
theorem stopsArePrecise : Obligations.StopsArePrecise := by
  refine ⟨fun s why hrun => stopsWith_decStop why hrun, fun s t hrst hrun h => ?_⟩
  rcases decTurn_runsOnOrStops hrst hrun h with ⟨hphase, hstatus⟩ | ⟨hphase, hkept⟩
  · simp [hphase, hstatus]
  · simp [hphase, hkept, decDone, Phase.bit]

end Sys2Proof.Proofs
end

section
/-! The family of the exceptions (60_exceptions.md): the independence of ENC and DEC (R143), and `DONE`, which only reset
leaves (R101, R137). -/

namespace Sys2Proof.Proofs

open Sys2Proof.Machine

/-! ### A block's step depends on that block alone (R143) -/

/-- What an instruction makes of DEC is one function of DEC, whatever state it runs in. -/
theorem exec_uniform (i : Instr) : ∃ f : DecState → DecState, ∀ s, exec i s = .next (s.onDec f) := by
  cases i with
  | lit literal => exact ⟨decEmit literal, fun _ => rfl⟩
  | modp sel => exact ⟨fun d => decEmitOrStop (optionOperand sel d) d, fun _ => rfl⟩
  | rep2 => exact ⟨fun d => decEmitOrStop (secondLastOperand d) d, fun _ => rfl⟩
  | rep1 => exact ⟨fun d => decEmitOrStop (lastOperand d) d, fun _ => rfl⟩
  | sent => exact ⟨decStop .sentinel, fun _ => rfl⟩

/-- So is what the decoder's answer makes of it. -/
theorem decRun_uniform (a : Decoded) : ∃ f : DecState → DecState, ∀ s, decRun a s = .next (s.onDec f) := by
  cases a with
  | instr i after =>
    obtain ⟨f, hf⟩ := exec_uniform i
    exact ⟨fun d => f (decMoveTo after d), fun s => hf (s.onDec (decMoveTo after))⟩
  | ends why after => exact ⟨fun d => decStop (endStatus why) (decMoveTo after d), fun _ => rfl⟩
  | starved waiting => exact ⟨decMoveTo waiting, fun _ => rfl⟩

/-! When ENC's ports are up (R39, R151), and the update that changes nothing. -/

theorem encOutValid_iff {e : EncState} : encOutValid e = true ↔ e.rst = false ∧ e.outq ≠ [] := by
  simp [encOutValid]

theorem encInReady_iff {e : EncState} : encInReady e = true ↔ e.rst = false ∧ e.phase = .run ∧ e.outq = [] := by
  simp [encInReady, and_assoc]

@[simp] theorem onEnc_id (s : State) : s.onEnc id = s := rfl
@[simp] theorem onDec_id (s : State) : s.onDec id = s := rfl

/-- ENC's step is one function of ENC, the same in every state with that ENC. -/
theorem encTurn_uniform {s t : State} (h : encTurn s = .next t) :
    ∃ f : EncState → EncState, ∀ s' : State, s'.enc = s.enc → encTurn s' = .next (s'.onEnc f) := by
  rcases encTurn_cases h with ⟨hrst, _⟩ | ⟨hvalid, hready, _⟩ | ⟨hvalid, hready, _⟩ | ⟨hin, hinp, _⟩ |
    ⟨tok, rest, hin, hlegal, hinp, _⟩ | ⟨hrst, hvalid, hin, _⟩
  · exact ⟨encReset, fun s' hs => by simp [encTurn, hs, hrst]⟩
  · obtain ⟨hrst, _⟩ := encOutValid_iff.mp hvalid
    exact ⟨fun e => encMove e.outq.length e, fun s' hs => by simp [encTurn, hs, hrst, hvalid, hready]⟩
  · obtain ⟨hrst, _⟩ := encOutValid_iff.mp hvalid
    exact ⟨id, fun s' hs => by simp [encTurn, hs, hrst, hvalid, hready]⟩
  · obtain ⟨hrst, _, houtq⟩ := encInReady_iff.mp hin
    exact ⟨id, fun s' hs => by simp [encTurn, encOutValid, hs, hrst, houtq, hin, hinp]⟩
  · obtain ⟨hrst, _, houtq⟩ := encInReady_iff.mp hin
    exact ⟨fun e => encTake tok { e with inp := rest },
      fun s' hs => by simp [encTurn, encOutValid, hs, hrst, houtq, hin, hinp, hlegal]⟩
  · exact ⟨id, fun s' hs => by simp [encTurn, hs, hrst, hvalid, hin]⟩

/-- DEC's step is one function of DEC, the same in every state with that DEC. -/
theorem decTurn_uniform {s t : State} (h : decTurn s = .next t) :
    ∃ f : DecState → DecState, ∀ s' : State, s'.dec = s.dec → decTurn s' = .next (s'.onDec f) := by
  cases hrst : s.dec.rst with
  | true => exact ⟨decReset, fun s' hs => by simp [decTurn, hs, hrst]⟩
  | false =>
    cases hvalid : decOutValid s.dec with
    | true =>
      cases hready : s.dec.outReady with
      | true => exact ⟨fun d => decMove d.outq.length d, fun s' hs => by simp [decTurn, hs, hrst, hvalid, hready]⟩
      | false => exact ⟨id, fun s' hs => by simp [decTurn, hs, hrst, hvalid, hready]⟩
    | false =>
      cases hphase : s.dec.phase with
      | done => exact ⟨id, fun s' hs => by simp [decTurn, hs, hrst, hvalid, hphase]⟩
      | run =>
        have hlegal : decLegal s.dec = true := by
          by_contra hillegal
          simp [decTurn, hrst, hvalid, hphase, hillegal] at h
        obtain ⟨f, hf⟩ := decRun_uniform (decode (decCursor s.dec))
        exact ⟨f, fun s' hs => by simp [decTurn, hs, hrst, hphase, hvalid, hlegal, hf]⟩

/-- ENC's step leaves DEC and the host's list alone. -/
theorem encTurn_dec_host {s t : State} (h : encTurn s = .next t) : t.dec = s.dec ∧ t.host = s.host := by
  obtain ⟨f, hf⟩ := encTurn_uniform h
  obtain rfl := Host.Outcome.next.inj (h.symm.trans (hf s rfl))
  exact ⟨rfl, rfl⟩

/-- DEC's step leaves the host's list alone; for ENC see `decTurn_enc`. -/
theorem decTurn_host {s t : State} (h : decTurn s = .next t) : t.host = s.host := by
  obtain ⟨f, hf⟩ := decTurn_uniform h
  obtain rfl := Host.Outcome.next.inj (h.symm.trans (hf s rfl))
  rfl

/-- ENC's step gives ENC the same value in every state with the same ENC. -/
theorem encTurn_of_enc_eq {s t s' : State} (h : encTurn s = .next t) (hs : s'.enc = s.enc) :
    encTurn s' = .next { s' with enc := t.enc } := by
  obtain ⟨f, hf⟩ := encTurn_uniform h
  obtain rfl := Host.Outcome.next.inj (h.symm.trans (hf s rfl))
  rw [hf s' hs, State.onEnc, onEnc_enc, hs]

/-- DEC's step gives DEC the same value in every state with the same DEC. -/
theorem decTurn_of_dec_eq {s t s' : State} (h : decTurn s = .next t) (hs : s'.dec = s.dec) :
    decTurn s' = .next { s' with dec := t.dec } := by
  obtain ⟨f, hf⟩ := decTurn_uniform h
  obtain rfl := Host.Outcome.next.inj (h.symm.trans (hf s rfl))
  rw [hf s' hs, State.onDec, onDec_dec, hs]

/-- Settles O8: a block's step is a function of that block alone, so after the other block's step it does what it would have
done before it. -/
theorem encAndDecShareNothing : Obligations.EncAndDecShareNothing := by
  refine ⟨fun s t h => ?_, fun s t h => ?_, fun s t u henc hdec => ?_⟩
  · obtain ⟨hd, hhost⟩ := encTurn_dec_host h
    exact ⟨hd, hhost, fun s' => encTurn_of_enc_eq h⟩
  · exact ⟨decTurn_enc h, decTurn_host h, fun s' => decTurn_of_dec_eq h⟩
  · obtain ⟨hd, hhost⟩ := encTurn_dec_host henc
    refine ⟨decTurn_of_dec_eq hdec hd, ?_⟩
    rw [encTurn_of_enc_eq henc (decTurn_enc hdec), decTurn_host hdec, hhost]

/-! ### `DONE` (R101, R137) -/

/-- ENC stays in `DONE`, with its history, its flag and every byte it has written, and takes no token. -/
def EncStaysDone (e e' : EncState) : Prop :=
  e'.phase = .done ∧ e'.p0 = e.p0 ∧ e'.p1 = e.p1 ∧ e'.coll = e.coll
    ∧ encWritten e' = encWritten e ∧ e.inp <+: e'.inp

/-- DEC stays in `DONE`, with its status, its history, its control byte and every byte it has written, and takes no token. -/
def DecStaysDone (d d' : DecState) : Prop :=
  d'.phase = .done ∧ d'.status = d.status ∧ d'.p0 = d.p0 ∧ d'.p1 = d.p1 ∧ d'.ctrl = d.ctrl ∧ d'.rem = d.rem
    ∧ decWritten d' = decWritten d ∧ d.inp <+: d'.inp

section
variable {e : EncState} (hdone : e.phase = .done)
include hdone

theorem encStaysDone_self : EncStaysDone e e := ⟨hdone, rfl, rfl, rfl, rfl, List.prefix_rfl⟩

theorem encStaysDone_encMove (n : Nat) : EncStaysDone e (encMove n e) :=
  ⟨by simp [hdone], rfl, rfl, rfl, encWritten_encMove n e, List.prefix_rfl⟩

theorem encInReady_of_done : encInReady e = false := by simp [encInReady, hdone]

end

section
variable {d : DecState} (hdone : d.phase = .done)
include hdone

theorem decStaysDone_self : DecStaysDone d d := ⟨hdone, rfl, rfl, rfl, rfl, rfl, rfl, List.prefix_rfl⟩

theorem decStaysDone_decMove (n : Nat) : DecStaysDone d (decMove n d) :=
  ⟨hdone, rfl, rfl, rfl, rfl, rfl, decWritten_decMove n d, List.prefix_rfl⟩

theorem decInReady_of_done : decInReady d = false := by simp [decInReady, hdone]

end

section
variable {s t : State} (hdone : s.enc.phase = .done) (hrst : s.enc.rst = false)
include hdone hrst

/-- In `DONE` ENC's own step at most moves the bytes that wait. -/
theorem encTurn_staysDone (h : encTurn s = .next t) : EncStaysDone s.enc t.enc := by
  have hnot : encInReady s.enc = false := encInReady_of_done hdone
  rcases encTurn_cases h with ⟨hr, _⟩ | ⟨_, _, rfl⟩ | ⟨_, _, rfl⟩ | ⟨hin, _⟩ | ⟨_, _, hin, _⟩ | ⟨_, _, _, rfl⟩
  · simp [hrst] at hr
  · exact encStaysDone_encMove hdone _
  · exact encStaysDone_self hdone
  · simp [hnot] at hin
  · simp [hnot] at hin
  · exact encStaysDone_self hdone

/-- The host can take a waiting byte of it and offer it tokens behind those it holds. -/
theorem hostAct_encStaysDone {a : HostAction} (h : hostAct a s = .next t) : EncStaysDone s.enc t.enc := by
  cases a with
  | letEnc => exact encTurn_staysDone hdone hrst h
  | letDec => rw [decTurn_enc h]; exact encStaysDone_self hdone
  | offerEnc tok =>
    obtain rfl := Host.Outcome.next.inj h
    exact ⟨hdone, rfl, rfl, rfl, rfl, List.prefix_append _ _⟩
  | takeEnc =>
    obtain rfl := Host.Outcome.next.inj h
    rw [onEnc_enc]
    split
    · exact encStaysDone_encMove hdone 1
    · exact encStaysDone_self hdone
  | dropEnc =>
    obtain rfl := Host.Outcome.next.inj h
    rw [onEnc_enc, hrst]
    exact encStaysDone_self hdone
  | offerDec _ | driveEncRst _ | driveDecRst _ | driveEncReady _ | driveDecReady _ | takeDec | dropDec =>
    obtain rfl := Host.Outcome.next.inj h
    exact encStaysDone_self hdone

theorem step_encStaysDone (h : step s = .next t) : EncStaysDone s.enc t.enc := by
  cases hh : s.host with
  | nil =>
    obtain ⟨m, henc, hdec⟩ := step_of_host_nil hh h
    rw [decTurn_enc hdec]
    exact encTurn_staysDone hdone hrst henc
  | cons a rest =>
    rw [step_of_host_cons hh] at h
    exact hostAct_encStaysDone (s := { s with host := rest }) hdone hrst h

end

section
variable {s t : State} (hdone : s.dec.phase = .done) (hrst : s.dec.rst = false)
include hdone hrst

/-- In `DONE` DEC's own step at most moves the byte that waits (R25, R121). -/
theorem decTurn_staysDone (h : decTurn s = .next t) : DecStaysDone s.dec t.dec := by
  rcases decTurn_cases h with ⟨hr, _⟩ | ⟨_, _, rfl⟩ | ⟨_, _, rfl⟩ | ⟨_, _, rfl⟩ | ⟨_, hrun, _⟩
  · simp [hrst] at hr
  · exact decStaysDone_decMove hdone _
  · exact decStaysDone_self hdone
  · exact decStaysDone_self hdone
  · simp [hdone] at hrun

/-- The host can take a waiting byte of it and offer it tokens behind those it holds. -/
theorem hostAct_decStaysDone {a : HostAction} (h : hostAct a s = .next t) : DecStaysDone s.dec t.dec := by
  cases a with
  | letDec => exact decTurn_staysDone hdone hrst h
  | letEnc => rw [(encTurn_dec_host h).1]; exact decStaysDone_self hdone
  | offerDec tok =>
    obtain rfl := Host.Outcome.next.inj h
    exact ⟨hdone, rfl, rfl, rfl, rfl, rfl, rfl, List.prefix_append _ _⟩
  | takeDec =>
    obtain rfl := Host.Outcome.next.inj h
    rw [onDec_dec]
    split
    · exact decStaysDone_decMove hdone 1
    · exact decStaysDone_self hdone
  | dropDec =>
    obtain rfl := Host.Outcome.next.inj h
    rw [onDec_dec, hrst]
    exact decStaysDone_self hdone
  | offerEnc _ | driveEncRst _ | driveDecRst _ | driveEncReady _ | driveDecReady _ | takeEnc | dropEnc =>
    obtain rfl := Host.Outcome.next.inj h
    exact decStaysDone_self hdone

theorem step_decStaysDone (h : step s = .next t) : DecStaysDone s.dec t.dec := by
  cases hh : s.host with
  | nil =>
    obtain ⟨m, henc, hdec⟩ := step_of_host_nil hh h
    obtain ⟨hsame, _⟩ := encTurn_dec_host henc
    rw [← hsame] at hdone hrst ⊢
    exact decTurn_staysDone hdone hrst hdec
  | cons a rest =>
    rw [step_of_host_cons hh] at h
    exact hostAct_decStaysDone (s := { s with host := rest }) hdone hrst h

end

/-- Settles O3: neither a block's own step nor an action of the host makes more of a block in `DONE` than to move its
waiting bytes and to lengthen its line of tokens. -/
theorem onlyResetLeavesDone : Obligations.OnlyResetLeavesDone := by
  refine fun s t h => ⟨fun hdone hrst => ?_, fun hdone hrst => ?_⟩
  · obtain ⟨hphase, hp0, hp1, hcoll, hwritten, hinp⟩ := step_encStaysDone hdone hrst h
    exact ⟨hphase, hp0, hp1, hcoll, hwritten, hinp, encInReady_of_done hdone⟩
  · obtain ⟨hphase, hstatus, hp0, hp1, hctrl, hrem, hwritten, hinp⟩ := step_decStaysDone hdone hrst h
    exact ⟨hphase, hstatus, hp0, hp1, hctrl, hrem, hwritten, hinp, decInReady_of_done hdone⟩

end Sys2Proof.Proofs
end

section
/-! The instructions of DEC one by one (42_decoder.md section 2), what every instruction leaves unchanged, and the status
outputs. -/

namespace Sys2Proof.Proofs

open Sys2Proof.Machine Sys2Proof.Safety

/-! ### An instruction that copies an operand (R114 to R116) -/

theorem eq_ofByte_of_isDef {x : OptByte} (h : x.isDef = true) : x = .ofByte x.val := by
  obtain ⟨isDef, val⟩ := x
  subst h
  rfl

/-- Option `sel` of a defined byte, by the shifts of R78 to R81. -/
theorem optionOperand_of_isDef (sel : BitVec 2) {d : DecState} (h : d.p1.isDef = true) :
    optionOperand sel d = some
      (if sel = 0#2 then d.p1.val ||| (d.p1.val <<< 1)
       else if sel = 1#2 then d.p1.val &&& (d.p1.val <<< 1)
       else if sel = 2#2 then d.p1.val ||| (d.p1.val >>> 1)
       else d.p1.val &&& (d.p1.val >>> 1)) := by
  have hsel : sel = 0#2 ∨ sel = 1#2 ∨ sel = 2#2 ∨ sel = 3#2 := by
    revert sel
    decide
  rw [optionOperand, eq_ofByte_of_isDef h, odr_ofByte, opt0_eq, opt1_eq]
  rcases hsel with rfl | rfl | rfl | rfl <;> rfl

section
variable {s : State} (hrun : s.dec.phase = .run)
include hrun

theorem writesByte_decEmitOrStop {operand : Option Byte} {v : Byte} (h : operand = some v) :
    WritesByte v s (s.onDec (decEmitOrStop operand)) := by
  subst h
  exact writesByte_decEmit v hrun

/-- Without a value for its operand an instruction stops, and `dec_status` reads 5 (R134). -/
theorem stopsWith_decEmitOrStop {operand : Option Byte} (h : operand = none) :
    StopsWith .undefRef s (s.onDec (decEmitOrStop operand))
      ∧ decStatusCode (s.onDec (decEmitOrStop operand)) = 5#3 := by
  subst h
  have hstop : StopsWith .undefRef s (s.onDec (decStop .undefRef)) := stopsWith_decStop .undefRef hrun
  exact ⟨hstop, congrArg decStatusCode hstop⟩

end

/-- Settles O10: LIT ends in the output of its literal. -/
theorem litWritesItsLiteral : Obligations.LitWritesItsLiteral :=
  fun literal _ hrun => ⟨_, rfl, writesByte_decEmit literal hrun⟩

/-- Settles O11: the operand of MODP is the option, written as shifts. -/
theorem modpWritesTheSelectedOption : Obligations.ModpWritesTheSelectedOption :=
  fun sel _ hrun hdef => ⟨_, rfl, writesByte_decEmitOrStop hrun (optionOperand_of_isDef sel hdef)⟩

/-- Settles O12: the operand of REP2 is `dec_p0`. -/
theorem rep2WritesTheSecondLastByte : Obligations.Rep2WritesTheSecondLastByte :=
  fun _ hrun hdef => ⟨_, rfl, writesByte_decEmitOrStop hrun (toOption_of_isDef hdef)⟩

/-- Settles O13: the operand of REP1 is `dec_p1`. -/
theorem rep1WritesTheLastByte : Obligations.Rep1WritesTheLastByte :=
  fun _ hrun hdef => ⟨_, rfl, writesByte_decEmitOrStop hrun (toOption_of_isDef hdef)⟩

/-- Settles O14: SENT is the stop itself; the outputs read the state it leaves. -/
theorem sentStopsWithSentinel : Obligations.SentStopsWithSentinel := by
  intro s hrun
  have hstop : StopsWith .sentinel s (s.onDec (decStop .sentinel)) := stopsWith_decStop .sentinel hrun
  exact ⟨_, rfl, hstop, congrArg decDone hstop, congrArg decStatusCode hstop⟩

/-- Settles O15: each of the three instructions finds no value for its operand. -/
theorem undefinedReferenceStops : Obligations.UndefinedReferenceStops := by
  intro s hrun
  refine ⟨fun hundef => ⟨_, rfl, ?_⟩, fun hundef => ⟨_, rfl, ?_⟩, fun hundef sel => ⟨_, rfl, ?_⟩⟩
  · exact stopsWith_decEmitOrStop hrun (toOption_of_undef hundef)
  · exact stopsWith_decEmitOrStop hrun (toOption_of_undef hundef)
  · exact stopsWith_decEmitOrStop hrun (optionOperand_undef sel hundef)

/-! ### What every instruction leaves unchanged -/

/-- An output byte leaves the cursor and the pins of DEC alone. -/
theorem decEmit_frame (v : Byte) (d : DecState) :
    (decEmit v d).rem = d.rem ∧ (decEmit v d).inp = d.inp ∧ (decEmit v d).rst = d.rst
      ∧ (decEmit v d).outReady = d.outReady := by
  cases hp : d.phase with
  | run => rcases decOutWrite_cases v d with ⟨_, _, hw⟩ | ⟨_, hw⟩ <;> simp [decEmit_run v hp, hw]
  | done => simp [decEmit_done v hp]

/-- A stop leaves the cursor, the pins, the output and the history of DEC alone (R120). -/
theorem decStop_frame (why : DecStatus) (d : DecState) :
    (decStop why d).rem = d.rem ∧ (decStop why d).inp = d.inp ∧ (decStop why d).rst = d.rst
      ∧ (decStop why d).outReady = d.outReady ∧ (decStop why d).out = d.out ∧ (decStop why d).outq = d.outq
      ∧ (decStop why d).p0 = d.p0 ∧ (decStop why d).p1 = d.p1 ∧ (decStop why d).phase = .done := by
  cases hp : d.phase with
  | run => simp [decStop_run why hp]
  | done => simp [decStop_done why hp, hp]

theorem decEmit_inp (v : Byte) (d : DecState) : (decEmit v d).inp = d.inp := by
  obtain ⟨_, hinp, _⟩ := decEmit_frame v d
  exact hinp

theorem decStop_inp (why : DecStatus) (d : DecState) : (decStop why d).inp = d.inp := by
  obtain ⟨_, hinp, _⟩ := decStop_frame why d
  exact hinp

/-- In `RUN` an output byte is written and becomes the last of the history (R118). -/
theorem decEmit_writes (v : Byte) {d : DecState} (h : d.phase = .run) :
    decWritten (decEmit v d) = decWritten d ++ [v] ∧ (decEmit v d).p0 = d.p1 ∧ (decEmit v d).p1 = .ofByte v := by
  rw [decEmit_run v h]
  refine ⟨decWritten_decOutWrite v d, ?_, rfl⟩
  rcases decOutWrite_cases v d with ⟨_, _, hw⟩ | ⟨_, hw⟩ <;> simp [hw]

theorem onDec_eq_self {f : DecState → DecState} {s : State} (h : f s.dec = s.dec) : s.onDec f = s := by
  rw [State.onDec, h]

/-- Settles O16: every instruction ends in an output byte or in a stop. -/
theorem instructionFrame : Obligations.InstructionFrame := by
  intro i s t h
  obtain ⟨f, hf, hkind⟩ := exec_next i s
  obtain rfl := Host.Outcome.next.inj (h.symm.trans hf)
  refine ⟨rfl, rfl, ?_⟩
  rcases hkind with ⟨v, rfl⟩ | ⟨why, _, rfl⟩
  · obtain ⟨hrem, hinp, hrst, hready⟩ := decEmit_frame v s.dec
    obtain ⟨hphase, hstatus⟩ := decEmit_phase_status v s.dec
    refine ⟨decEmit_ctrl v s.dec, hrem, hinp, hrst, hready, fun hd => onDec_eq_self (decEmit_done v hd), ?_⟩
    cases hp : s.dec.phase with
    | run =>
      obtain ⟨hwritten, hp0, hp1⟩ := decEmit_writes v hp
      exact .inl ⟨v, hwritten, hp0, hp1, hphase.trans hp, hstatus⟩
    | done => exact .inr (by simp [decEmit_done v hp, hp])
  · obtain ⟨hrem, hinp, hrst, hready, hout, houtq, hp0, hp1, hphase⟩ := decStop_frame why s.dec
    exact ⟨decStop_ctrl why s.dec, hrem, hinp, hrst, hready, fun hd => onDec_eq_self (decStop_done why hd),
      .inr ⟨hout, houtq, hp0, hp1, hphase⟩⟩

/-! ### The history (R34) -/

/-- After the bytes `bytes` from an undefined history, `p1` holds the last of them and `p0` the one before. -/
def HistoryHolds (bytes : List Byte) (p0 p1 : OptByte) : Prop :=
  p1.toOption = bytes.reverse.head? ∧ p0.toOption = bytes.reverse.tail.head?

theorem historyHolds_nil {p0 p1 : OptByte} (h0 : p0.isDef = false) (h1 : p1.isDef = false) :
    HistoryHolds [] p0 p1 :=
  ⟨toOption_of_undef h1, toOption_of_undef h0⟩

/-- The history update of R23 and R16: the last byte becomes the one before it. -/
theorem HistoryHolds.push {bytes : List Byte} {p0 p1 : OptByte} (h : HistoryHolds bytes p0 p1) (b : Byte) :
    HistoryHolds (bytes ++ [b]) p1 (.ofByte b) := by
  refine ⟨?_, ?_⟩
  · rw [List.reverse_concat]
    rfl
  · rw [List.reverse_concat]
    exact h.1

/-- DEC after it has written `bytes`, by induction on the last byte written. -/
theorem foldl_decEmit_history {d : DecState} (hrun : d.phase = .run) (h0 : d.p0.isDef = false)
    (h1 : d.p1.isDef = false) (bytes : List Byte) :
    (bytes.foldl (fun d v => decEmit v d) d).phase = .run
      ∧ decWritten (bytes.foldl (fun d v => decEmit v d) d) = decWritten d ++ bytes
      ∧ HistoryHolds bytes (bytes.foldl (fun d v => decEmit v d) d).p0 (bytes.foldl (fun d v => decEmit v d) d).p1 := by
  induction bytes using List.reverseRecOn with
  | nil => exact ⟨hrun, (List.append_nil _).symm, historyHolds_nil h0 h1⟩
  | append_singleton bytes b ih =>
    obtain ⟨hphase, hwritten, hhistory⟩ := ih
    rw [List.foldl_concat]
    obtain ⟨hw, hp0, hp1⟩ := decEmit_writes b hphase
    obtain ⟨hsame, _⟩ := decEmit_phase_status b (bytes.foldl (fun d v => decEmit v d) d)
    refine ⟨hsame.trans hphase, by rw [hw, hwritten, List.append_assoc], ?_⟩
    rw [hp0, hp1]
    exact hhistory.push b

/-- ENC after it has made a pass over each of `bytes`. -/
theorem foldl_encPass_history {e : EncState} (h0 : e.p0.isDef = false) (h1 : e.p1.isDef = false)
    (bytes : List Byte) :
    HistoryHolds bytes (bytes.foldl (fun e b => encPass b e) e).p0 (bytes.foldl (fun e b => encPass b e) e).p1 := by
  induction bytes using List.reverseRecOn with
  | nil => exact historyHolds_nil h0 h1
  | append_singleton bytes b ih =>
    rw [List.foldl_concat]
    obtain ⟨hp0, hp1, _⟩ := encPass_frame b (bytes.foldl (fun e b => encPass b e) e)
    rw [hp0, hp1]
    exact ih.push b

/-- Settles O21: both blocks update their history alike, once for each byte. -/
theorem historyHoldsTheLastTwoBytes : Obligations.HistoryHoldsTheLastTwoBytes := by
  intro d bytes hrun h0 h1
  obtain ⟨_, hwritten, hp1, hp0⟩ := foldl_decEmit_history hrun h0 h1 bytes
  exact ⟨hp1, hp0, hwritten, fun e he0 he1 => foldl_encPass_history he0 he1 bytes⟩

/-! ### The status outputs (R29, R134) -/

theorem phase_bit_iff (p : Phase) : p.bit = true ↔ p = .done := by
  cases p <;> decide

/-- The codes tell the statuses apart. -/
theorem code_inj_iff (a b : DecStatus) : a = b ↔ a.code = b.code := by
  cases a <;> cases b <;> decide

theorem code_ne_unused (a : DecStatus) : a.code ≠ 6#3 ∧ a.code ≠ 7#3 := by
  cases a <;> decide

/-- Settles O22: the bit of a phase and the code of a status. -/
theorem statusOutputsReadTheRegisters : Obligations.StatusOutputsReadTheRegisters := by
  intro s
  have hcode (a : DecStatus) : s.dec.status = a ↔ decStatusCode s = a.code := code_inj_iff _ _
  obtain ⟨hsix, hseven⟩ := code_ne_unused s.dec.status
  exact ⟨phase_bit_iff _, rfl, phase_bit_iff _, hcode .none, hcode .sentinel, hcode .eofCtrl, hcode .eofLit,
    hcode .eofSel, hcode .undefRef, hsix, hseven, rfl, rfl, rfl, rfl⟩

end Sys2Proof.Proofs
end

section
/-! What the decoder can answer, with the tokens it takes for it, and what follows for a DEC that waits (R39, R111 to R117). -/

namespace Sys2Proof.Proofs

open Sys2Proof.Machine

/-! ### Every answer of the decoder, by the slot and the next token -/

/-- The answers at a field of a loaded control byte (R113, R116, R117). -/
inductive FieldAnswer (c : Cursor) : Decoded → Prop where
  | litWaits (hslot : slotAt c.ctrl c.rem = 0b00#2) (hinp : c.inp = []) : FieldAnswer c (.starved c)
  | litEnds {rest : List DecToken} (hslot : slotAt c.ctrl c.rem = 0b00#2) (hinp : c.inp = .eof :: rest) :
      FieldAnswer c (.ends .eofLit ⟨c.ctrl, c.rem - 2#4, rest⟩)
  | lit {v : Byte} {rest : List DecToken} (hslot : slotAt c.ctrl c.rem = 0b00#2) (hinp : c.inp = .byte v :: rest) :
      FieldAnswer c (.instr (.lit v) ⟨c.ctrl, c.rem - 2#4, rest⟩)
  | selWaits (hslot : slotAt c.ctrl c.rem = 0b01#2) (hlast : c.rem = 2#4) (hinp : c.inp = []) :
      FieldAnswer c (.starved c)
  | selEnds {rest : List DecToken} (hslot : slotAt c.ctrl c.rem = 0b01#2) (hlast : c.rem = 2#4)
      (hinp : c.inp = .eof :: rest) : FieldAnswer c (.ends .eofSel ⟨c.ctrl, 0#4, rest⟩)
  | selSentinel {rest : List DecToken} (hslot : slotAt c.ctrl c.rem = 0b01#2) (hlast : c.rem = 2#4)
      (hinp : c.inp = .byte Config.sentinel :: rest) : FieldAnswer c (.instr .sent ⟨c.ctrl, 0#4, rest⟩)
  | modpNext {b : Byte} {rest : List DecToken} (hslot : slotAt c.ctrl c.rem = 0b01#2) (hlast : c.rem = 2#4)
      (hinp : c.inp = .byte b :: rest) (hb : b ≠ Config.sentinel) :
      FieldAnswer c (.instr (.modp (slotAt b 8#4)) ⟨b, 6#4, rest⟩)
  | modpHere (hslot : slotAt c.ctrl c.rem = 0b01#2) (hmore : c.rem ≠ 2#4) :
      FieldAnswer c (.instr (.modp (slotAt c.ctrl (c.rem - 2#4))) ⟨c.ctrl, c.rem - 2#4 - 2#4, c.inp⟩)
  | rep2 (hslot : slotAt c.ctrl c.rem = 0b10#2) : FieldAnswer c (.instr .rep2 ⟨c.ctrl, c.rem - 2#4, c.inp⟩)
  | rep1 (hslot : slotAt c.ctrl c.rem = 0b11#2) : FieldAnswer c (.instr .rep1 ⟨c.ctrl, c.rem - 2#4, c.inp⟩)

/-- The answers at any cursor: at a slot boundary a control byte is fetched first (R112). -/
inductive Answer (c : Cursor) : Decoded → Prop where
  | fetchWaits (hrem : c.rem = 0#4) (hinp : c.inp = []) : Answer c (.starved c)
  | fetchEnds {rest : List DecToken} (hrem : c.rem = 0#4) (hinp : c.inp = .eof :: rest) :
      Answer c (.ends .eofCtrl ⟨c.ctrl, 0#4, rest⟩)
  | fetchSentinel {rest : List DecToken} (hrem : c.rem = 0#4) (hinp : c.inp = .byte Config.sentinel :: rest) :
      Answer c (.instr .sent ⟨c.ctrl, 0#4, rest⟩)
  | loaded {b : Byte} {rest : List DecToken} {a : Decoded} (hrem : c.rem = 0#4) (hinp : c.inp = .byte b :: rest)
      (hb : b ≠ Config.sentinel) (hfield : FieldAnswer ⟨b, 8#4, rest⟩ a) : Answer c a
  | inside {a : Decoded} (hrem : c.rem ≠ 0#4) (hfield : FieldAnswer c a) : Answer c a

theorem slot_cases (s : Slot) : s = 0b00#2 ∨ s = 0b01#2 ∨ s = 0b10#2 ∨ s = 0b11#2 := by
  revert s
  decide

theorem decode_fieldAnswer {c : Cursor} (hrem : c.rem ≠ 0#4) : FieldAnswer c (decode c) := by
  rcases slot_cases (slotAt c.ctrl c.rem) with hslot | hslot | hslot | hslot
  · rw [decode_literal hrem hslot]
    match hinp : c.inp with
    | [] =>
      rw [readLiteral, Cursor.dropSlot_inp, hinp]
      exact .litWaits hslot hinp
    | .eof :: rest =>
      rw [readLiteral_eof c (c := c.dropSlot) hinp]
      exact .litEnds hslot hinp
    | .byte v :: rest =>
      rw [readLiteral_byte c (c := c.dropSlot) hinp]
      exact .lit hslot hinp
  · rw [decode_modifyPrev hrem hslot]
    by_cases hlast : c.rem = 2#4
    · have hempty : c.dropSlot.rem = 0#4 := by rw [Cursor.dropSlot_rem, hlast]; rfl
      match hinp : c.inp with
      | [] =>
        simp only [readSelector, hempty, fetchCtrl, Cursor.dropSlot_inp, hinp, if_true]
        exact .selWaits hslot hlast hinp
      | .eof :: rest =>
        rw [readSelector_eof hempty c hinp, hempty]
        exact .selEnds hslot hlast hinp
      | .byte b :: rest =>
        by_cases hb : b = Config.sentinel
        · subst hb
          rw [readSelector_sentinel hempty c hinp, hempty]
          exact .selSentinel hslot hlast hinp
        · rw [readSelector_loaded hempty c hinp hb]
          exact .modpNext hslot hlast hinp hb
    · rw [readSelector_here c (c := c.dropSlot) (sub_ne_zero.mpr hlast)]
      exact .modpHere hslot hlast
  · rw [decode_repeatSecondLast hrem hslot]
    exact .rep2 hslot
  · rw [decode_repeatLast hrem hslot]
    exact .rep1 hslot

theorem decode_boundary_starved {c : Cursor} (hrem : c.rem = 0#4) (hinp : c.inp = []) : decode c = .starved c := by
  simp [decode, fetchCtrl, hrem, hinp]

theorem decode_answer (c : Cursor) : Answer c (decode c) := by
  by_cases hrem : c.rem = 0#4
  · match hinp : c.inp with
    | [] =>
      rw [decode_boundary_starved hrem hinp]
      exact .fetchWaits hrem hinp
    | .eof :: rest =>
      rw [decode_boundary_eof hrem hinp, hrem]
      exact .fetchEnds hrem hinp
    | .byte b :: rest =>
      by_cases hb : b = Config.sentinel
      · subst hb
        rw [decode_boundary_sentinel hrem hinp, hrem]
        exact .fetchSentinel hrem hinp
      · rw [decode_boundary_loaded hrem hinp hb]
        exact .loaded hrem hinp hb (decode_fieldAnswer (by simp))
  · exact .inside hrem (decode_fieldAnswer hrem)

/-! ### The tokens a field takes (R39) -/

/-- When the field at the cursor needs a token (R39). -/
theorem needsToken_iff {c : Cursor} :
    needsToken c = true ↔
      c.rem = 0#4 ∨ slotAt c.ctrl c.rem = 0b00#2 ∨ (slotAt c.ctrl c.rem = 0b01#2 ∧ c.rem = 2#4) := by
  unfold needsToken
  rcases slot_cases (slotAt c.ctrl c.rem) with hslot | hslot | hslot | hslot <;> rw [hslot] <;>
    by_cases hrem : c.rem = 0#4 <;> simp [hrem, OpCode.ofSlot]

/-- A field of a loaded control byte takes at most one token. -/
theorem FieldAnswer.takes_le_one {c : Cursor} {a : Decoded} (h : FieldAnswer c a) :
    ∃ k ≤ 1, k ≤ c.inp.length ∧ (answerCursor a).inp = c.inp.drop k := by
  cases h
  case litWaits | selWaits | modpHere | rep2 | rep1 => exact ⟨0, by simp [answerCursor]⟩
  case litEnds hinp | lit hinp | selEnds hinp | selSentinel hinp | modpNext hinp _ =>
    exact ⟨1, by simp [hinp, answerCursor]⟩

/-- Inside a control byte a field takes a token exactly if it needs one and one is offered. -/
theorem FieldAnswer.takes_iff_needs {c : Cursor} {a : Decoded} (h : FieldAnswer c a) (hrem : c.rem ≠ 0#4) :
    (needsToken c = false → (answerCursor a).inp = c.inp)
      ∧ (needsToken c = true → c.inp = [] → a = .starved c)
      ∧ (needsToken c = true → c.inp ≠ [] → 1 ≤ c.inp.length ∧ (answerCursor a).inp = c.inp.drop 1) := by
  cases h
  case litWaits hslot hinp => simp [needsToken_iff.mpr (.inr (.inl hslot)), hinp]
  case litEnds hslot hinp | lit hslot hinp => simp [needsToken_iff.mpr (.inr (.inl hslot)), hinp, answerCursor]
  case selWaits hslot hlast hinp => simp [needsToken_iff.mpr (.inr (.inr ⟨hslot, hlast⟩)), hinp]
  case selEnds hslot hlast hinp | selSentinel hslot hlast hinp | modpNext hslot hlast hinp _ =>
    simp [needsToken_iff.mpr (.inr (.inr ⟨hslot, hlast⟩)), hinp, answerCursor]
  case modpHere hslot hmore =>
    have hnot : ¬ needsToken c = true := by simp [needsToken_iff, hrem, hslot, hmore]
    simp [hnot, answerCursor]
  case rep2 hslot | rep1 hslot =>
    have hnot : ¬ needsToken c = true := by simp [needsToken_iff, hrem, hslot]
    simp [hnot, answerCursor]

/-- With no token offered, a field that needs one waits with nothing taken. -/
theorem Answer.waits {c : Cursor} {a : Decoded} (h : Answer c a) (hneeds : needsToken c = true) (hempty : c.inp = []) :
    a = .starved c := by
  cases h
  case fetchWaits => rfl
  case fetchEnds _ hinp | fetchSentinel _ hinp | loaded _ hinp _ _ => simp [hempty] at hinp
  case inside hrem hfield =>
    obtain ⟨_, hwaits, _⟩ := hfield.takes_iff_needs hrem
    exact hwaits hneeds hempty

/-- Of the tokens offered, a field that needs one takes the first, and a second one behind a control byte it has fetched. -/
theorem Answer.takes_one_or_two {c : Cursor} {a : Decoded} (h : Answer c a) (hneeds : needsToken c = true)
    (hsome : c.inp ≠ []) :
    ∃ k, (k = 1 ∨ k = 2) ∧ k ≤ c.inp.length ∧ (answerCursor a).inp = c.inp.drop k := by
  cases h
  case fetchWaits _ hinp => exact absurd hinp hsome
  case fetchEnds _ hinp | fetchSentinel _ hinp => exact ⟨1, .inl rfl, by simp [hinp, answerCursor]⟩
  case loaded hinp _ hfield =>
    obtain ⟨k, hk, hlen, htaken⟩ := hfield.takes_le_one
    refine ⟨k + 1, by omega, ?_, ?_⟩
    · rw [hinp]
      exact Nat.succ_le_succ hlen
    · rw [hinp]
      exact htaken
  case inside hrem hfield =>
    obtain ⟨_, _, htakes⟩ := hfield.takes_iff_needs hrem
    exact ⟨1, .inl rfl, htakes hneeds hsome⟩

/-- A field that needs no token takes none. -/
theorem Answer.takes_none {c : Cursor} {a : Decoded} (h : Answer c a) (hneeds : needsToken c = false) :
    (answerCursor a).inp = c.inp := by
  cases h
  case inside hrem hfield =>
    obtain ⟨hnone, _⟩ := hfield.takes_iff_needs hrem
    exact hnone hneeds
  case fetchWaits => rfl
  case fetchEnds hrem _ | fetchSentinel hrem _ | loaded hrem _ _ _ => simp [needsToken, hrem] at hneeds

/-! ### A DEC that waits (R39, R145; log 5) -/

/-- The cursor with more tokens offered behind its own. -/
def offered (more : List DecToken) (c : Cursor) : Cursor := { c with inp := c.inp ++ more }

/-- What an answer becomes when more tokens are offered: a complete one keeps them for later, a waiting DEC reads on. -/
def resume (more : List DecToken) : Decoded → Decoded
  | .instr i after => .instr i (offered more after)
  | .ends why after => .ends why (offered more after)
  | .starved waiting => decode (offered more waiting)

/-- Inside a control byte DEC reads the same field with more tokens offered. -/
theorem FieldAnswer.resumes {c : Cursor} {a : Decoded} (h : FieldAnswer c a) (hrem : c.rem ≠ 0#4) (more : List DecToken) :
    decode (offered more c) = resume more a := by
  have hoffer : (offered more c).rem ≠ 0#4 := hrem
  have hempty (hlast : c.rem = 2#4) : (offered more c).dropSlot.rem = 0#4 := by
    rw [Cursor.dropSlot_rem, offered, hlast]
    rfl
  cases h
  case litWaits | selWaits => rfl
  case litEnds hslot hinp =>
    rw [decode_literal hoffer hslot, readLiteral_eof _ (congrArg (· ++ more) hinp)]
    rfl
  case lit hslot hinp =>
    rw [decode_literal hoffer hslot, readLiteral_byte _ (congrArg (· ++ more) hinp)]
    rfl
  case selEnds hslot hlast hinp =>
    rw [decode_modifyPrev hoffer hslot, readSelector_eof (hempty hlast) _ (congrArg (· ++ more) hinp), hempty hlast]
    rfl
  case selSentinel hslot hlast hinp =>
    rw [decode_modifyPrev hoffer hslot, readSelector_sentinel (hempty hlast) _ (congrArg (· ++ more) hinp), hempty hlast]
    rfl
  case modpNext hslot hlast hinp hb =>
    rw [decode_modifyPrev hoffer hslot, readSelector_loaded (hempty hlast) _ (congrArg (· ++ more) hinp) hb]
    rfl
  case modpHere hslot hmore =>
    rw [decode_modifyPrev hoffer hslot, readSelector_here _ (c := (offered more c).dropSlot) (sub_ne_zero.mpr hmore)]
    rfl
  case rep2 hslot => exact decode_repeatSecondLast hoffer hslot
  case rep1 hslot => exact decode_repeatLast hoffer hslot

theorem Answer.resumes {c : Cursor} {a : Decoded} (h : Answer c a) (more : List DecToken) :
    decode (offered more c) = resume more a := by
  cases h
  case fetchWaits => rfl
  case fetchEnds hrem hinp =>
    rw [decode_boundary_eof (c := offered more c) hrem (congrArg (· ++ more) hinp), ← hrem]
    rfl
  case fetchSentinel hrem hinp =>
    rw [decode_boundary_sentinel (c := offered more c) hrem (congrArg (· ++ more) hinp), ← hrem]
    rfl
  case loaded hrem hinp hb hfield =>
    rw [decode_boundary_loaded (c := offered more c) hrem (congrArg (· ++ more) hinp) hb]
    exact hfield.resumes (by simp) more
  case inside hrem hfield => exact hfield.resumes hrem more

/-- DEC waits only when every token offered has been taken. -/
theorem Answer.inp_of_starved {c w : Cursor} (h : Answer c (.starved w)) : w.inp = [] := by
  cases h
  case fetchWaits hinp => exact hinp
  case loaded hfield | inside hfield =>
    cases hfield
    case litWaits hinp | selWaits hinp => exact hinp

/-- Settles O9: more tokens let a waiting DEC read on where it waits, and leave a complete answer as it is. -/
theorem waitingForATokenChangesNothing : Obligations.WaitingForATokenChangesNothing := by
  intro c more
  have hresume : decode (offered more c) = resume more (decode c) := (decode_answer c).resumes more
  refine ⟨fun w hw => ?_, fun i after hi => ?_, fun why after hwhy => ?_⟩
  · have hinp : w.inp = [] := (hw ▸ decode_answer c).inp_of_starved
    have hoffer : offered more w = { w with inp := more } := by rw [offered, hinp, List.nil_append]
    rw [hw, resume, hoffer] at hresume
    exact ⟨hinp, hresume⟩
  · rw [hi] at hresume
    exact hresume
  · rw [hwhy] at hresume
    exact hresume

/-! ### When a block takes tokens (R39) -/

/-- The cursor an answer leaves DEC at is where DEC's run with it leaves DEC. -/
theorem decRun_inp {a : Decoded} {s t : State} (h : decRun a s = .next t) : t.dec.inp = (answerCursor a).inp := by
  rcases decRun_cases h with
    ⟨i, after, f, rfl, rfl, ⟨v, rfl⟩ | ⟨why, _, rfl⟩⟩ | ⟨why, after, rfl, rfl⟩ | ⟨w, rfl, rfl⟩
  · exact decEmit_inp v (decMoveTo after s.dec)
  · exact decStop_inp why (decMoveTo after s.dec)
  · exact decStop_inp (endStatus why) (decMoveTo after s.dec)
  · rfl

theorem decInReady_iff {d : DecState} :
    decInReady d = true ↔ d.rst = false ∧ d.phase = .run ∧ d.outq = []
      ∧ (d.rem = 0#4 ∨ slotAt d.ctrl d.rem = 0b00#2 ∨ (slotAt d.ctrl d.rem = 0b01#2 ∧ d.rem = 2#4)) := by
  simp [decInReady, needsToken_iff, and_assoc]

/-! ### ENC's operations leave the pins and the moved bytes alone -/

/-- From `e` to `e'` ENC has taken no token, its pins are the same, and what had moved to the host is still there. -/
structure EncFrame (e e' : EncState) : Prop where
  inp_eq : e'.inp = e.inp
  rst_eq : e'.rst = e.rst
  outReady_eq : e'.outReady = e.outReady
  out_prefix : e.out <+: e'.out

theorem EncFrame.refl (e : EncState) : EncFrame e e := ⟨rfl, rfl, rfl, List.prefix_rfl⟩

theorem EncFrame.trans {e f g : EncState} (h : EncFrame e f) (h' : EncFrame f g) : EncFrame e g :=
  ⟨h'.inp_eq.trans h.inp_eq, h'.rst_eq.trans h.rst_eq, h'.outReady_eq.trans h.outReady_eq,
    h.out_prefix.trans h'.out_prefix⟩

theorem encFrame_encOutWrite (bytes : List Byte) (e : EncState) : EncFrame e (encOutWrite bytes e) := by
  rcases encOutWrite_cases bytes e with ⟨_, _, h⟩ | ⟨_, h⟩ <;> rw [h]
  · exact ⟨rfl, rfl, rfl, List.prefix_append _ _⟩
  · exact ⟨rfl, rfl, rfl, List.prefix_rfl⟩

theorem encFrame_encFlush (e : EncState) : EncFrame e (encFlush e) := by
  obtain ⟨hinp, hrst, hready, hout⟩ := encFrame_encOutWrite (encControl e :: encPending e)
    { e with acc := encLeftover e, accn := e.accn - 8#4, coll := e.coll || isCollision (encControl e), litn := 0#3 }
  exact ⟨hinp, hrst, hready, hout⟩

theorem encFrame_encGather (b : Byte) (e : EncState) : EncFrame e (encGather b e) := by
  obtain ⟨_, _, _, _, _, hinp, hout, _, hrst, hready⟩ := encRecord_frame (encField b e) e
  exact ⟨hinp, hrst, hready, by rw [encGather, encHistory_out, hout]⟩

theorem encFrame_encPass (b : Byte) (e : EncState) : EncFrame e (encPass b e) := by
  rw [encPass_eq, encFlushFull]
  split
  · exact (encFrame_encGather b e).trans (encFrame_encFlush _)
  · exact encFrame_encGather b e

theorem encFrame_encPad (fuel : Nat) (e : EncState) : EncFrame e (encPad fuel e) := by
  induction fuel generalizing e with
  | zero => exact .refl e
  | succ fuel ih =>
    rw [encPad]
    split
    · exact .refl e
    · exact (encFrame_encPass Config.padByte e).trans (ih _)

theorem encFrame_encClose (e : EncState) : EncFrame e (encClose e) := by
  rw [encClose]
  split <;> exact ⟨rfl, rfl, rfl, List.prefix_rfl⟩

theorem encFrame_encTake (tok : EncToken) (e : EncState) : EncFrame e (encTake tok e) := by
  cases tok with
  | byte b => exact encFrame_encPass b e
  | endTok =>
    exact ((encFrame_encPad _ e).trans (encFrame_encOutWrite _ _)).trans (encFrame_encClose _)

/-! ### Tokens move only while a block is ready -/

/-- ENC's own step takes the first token if it is ready, and none if it is not. -/
theorem encTurn_inp {s t : State} (h : encTurn s = .next t) :
    (encInReady s.enc = false → t.enc.inp = s.enc.inp)
      ∧ (encInReady s.enc = true → t.enc.inp = s.enc.inp.tail)
      ∧ (encInReady s.enc = true → s.enc.inp = [] → t = s) := by
  rcases encTurn_cases h with ⟨hrst, rfl⟩ | ⟨hvalid, _, rfl⟩ | ⟨hvalid, _, rfl⟩ | ⟨_, hinp, rfl⟩ |
    ⟨tok, rest, hin, _, hinp, rfl⟩ | ⟨_, _, hin, rfl⟩
  · simp [encInReady, hrst]
  · simp [encInReady, (encOutValid_iff.mp hvalid).2]
  · simp [encInReady, (encOutValid_iff.mp hvalid).2]
  · simp [hinp]
  · simp [hin, hinp, (encFrame_encTake tok { s.enc with inp := rest }).inp_eq]
  · simp [hin]

theorem decOutValid_iff {d : DecState} : decOutValid d = true ↔ d.rst = false ∧ d.outq ≠ [] := by
  simp [decOutValid]

/-- DEC's own step takes tokens as the field at its cursor does, if it is ready, and none if it is not. -/
theorem decTurn_inp {s t : State} (h : decTurn s = .next t) :
    (decInReady s.dec = false → t.dec.inp = s.dec.inp)
      ∧ (decInReady s.dec = true → s.dec.inp ≠ [] →
          ∃ k, (k = 1 ∨ k = 2) ∧ k ≤ s.dec.inp.length ∧ t.dec.inp = s.dec.inp.drop k)
      ∧ (decInReady s.dec = true → s.dec.inp = [] → t = s) := by
  rcases decTurn_cases h with ⟨hrst, rfl⟩ | ⟨hvalid, _, rfl⟩ | ⟨hvalid, _, rfl⟩ | ⟨_, hdone, rfl⟩ |
    ⟨hrst, hrun, hvalid, _, hanswer⟩
  · simp [decInReady, hrst]
  · simp [decInReady, (decOutValid_iff.mp hvalid).2]
  · simp [decInReady, (decOutValid_iff.mp hvalid).2]
  · simp [decInReady, hdone]
  · have hready : decInReady s.dec = needsToken (decCursor s.dec) := by
      have houtq : s.dec.outq = [] := by simpa [decOutValid, hrst] using hvalid
      simp [decInReady, hrst, hrun, houtq]
    rw [hready, decRun_inp hanswer]
    refine ⟨fun hneeds => (decode_answer _).takes_none hneeds,
      fun hneeds => (decode_answer _).takes_one_or_two hneeds, fun hneeds hempty => ?_⟩
    rw [(decode_answer (decCursor s.dec)).waits hneeds hempty] at hanswer
    exact (Host.Outcome.next.inj hanswer).symm

/-- Settles O4: the ports by their definitions, the steps by what a step takes. -/
theorem tokensMoveOnlyWhileReady : Obligations.TokensMoveOnlyWhileReady :=
  ⟨fun _ => encInReady_iff, fun _ => decInReady_iff, fun _ _ => encTurn_inp, fun _ _ => decTurn_inp⟩

end Sys2Proof.Proofs
end

section
/-! The machine's step at the ports: reset, waiting bytes, the bytes that have moved, and the step as `exec` of the decoded
field. -/

namespace Sys2Proof.Proofs

open Sys2Proof.Machine Sys2Proof.Safety

/-! ### Reset (R151, R152) -/

/-- Settles O2: with `rst` at 1 neither port is up, and a block's step is its reset. -/
theorem rstTakesABlockToItsResetValues : Obligations.RstTakesABlockToItsResetValues := by
  refine fun s => ⟨fun hrst => ?_, fun hrst => ?_⟩
  · have hturn : encTurn s = .next (s.onEnc encReset) := by rw [encTurn, if_pos hrst]
    exact ⟨by simp [encInReady, hrst], by simp [encOutValid, hrst], _, hturn, rfl, rfl, rfl, rfl, rfl, rfl, rfl, rfl, rfl,
      rfl, by simp [encWritten], by simp [encOutValid], rfl, rfl⟩
  · have hturn : decTurn s = .next (s.onDec decReset) := by rw [decTurn, if_pos hrst]
    exact ⟨by simp [decInReady, hrst], by simp [decOutValid, hrst], _, hturn, rfl, rfl, rfl, rfl, rfl, rfl, rfl, rfl,
      by simp [decWritten], by simp [decOutValid], rfl, rfl⟩

/-! ### Waiting bytes (R39; log 1) -/

section
variable {s : State}

/-- While bytes wait, ENC's own step moves them all if the host is ready, and does nothing if it is not. -/
theorem encTurn_of_valid (hvalid : encOutValid s.enc = true) :
    encTurn s = if s.enc.outReady then .next (s.onEnc fun e => encMove e.outq.length e) else .next s := by
  obtain ⟨hrst, _⟩ := encOutValid_iff.mp hvalid
  simp [encTurn, hrst, hvalid]

theorem decTurn_of_valid (hvalid : decOutValid s.dec = true) :
    decTurn s = if s.dec.outReady then .next (s.onDec fun d => decMove d.outq.length d) else .next s := by
  obtain ⟨hrst, _⟩ := decOutValid_iff.mp hvalid
  simp [decTurn, hrst, hvalid]

/-- The host's action takes the first waiting byte. -/
theorem step_takeEnc (hvalid : encOutValid s.enc = true) :
    step { s with host := .takeEnc :: s.host } = .next (s.onEnc (encMove 1)) := by
  simp [step, coreStep, hostAct, State.onEnc, hvalid]

theorem step_takeDec (hvalid : decOutValid s.dec = true) :
    step { s with host := .takeDec :: s.host } = .next (s.onDec (decMove 1)) := by
  simp [step, coreStep, hostAct, State.onDec, hvalid]

end

/-- All waiting bytes of ENC have moved. -/
theorem encMove_all (e : EncState) :
    encMove e.outq.length e = { e with
      out := e.out ++ e.outq, outq := [], closing := false, phase := if e.closing = true then .done else e.phase } := by
  simp [encMove]

/-- The first waiting byte of ENC has moved. -/
theorem encMove_one {e : EncState} {b : Byte} {more : List Byte} (h : e.outq = b :: more) :
    encMove 1 e = { e with
      out := e.out ++ [b], outq := more
      closing := if more = [] then false else e.closing
      phase := if e.closing = true ∧ more = [] then .done else e.phase } := by
  cases more <;> simp [encMove, h]

/-- Settles O45: a block with waiting bytes is at its port; its step and the host's action are moves. -/
theorem waitingBytesMoveInOrderBeforeTheNextToken : Obligations.WaitingBytesMoveInOrderBeforeTheNextToken := by
  refine ⟨fun s hrst hwait => ?_, fun s hrst hwait => ?_⟩
  · have hvalid : encOutValid s.enc = true := encOutValid_iff.mpr ⟨hrst, hwait⟩
    refine ⟨by simp [encInReady, hwait], hvalid, fun hready => ?_, fun hready => ?_, fun b more hq => ?_⟩
    · simp [encTurn_of_valid hvalid, hready]
    · rw [encTurn_of_valid hvalid, if_pos hready, State.onEnc, encMove_all]
    · rw [step_takeEnc hvalid, State.onEnc, encMove_one hq]
  · have hvalid : decOutValid s.dec = true := decOutValid_iff.mpr ⟨hrst, hwait⟩
    refine ⟨by simp [decInReady, hwait], hvalid, fun hready => ?_, fun hready => ?_, fun b more hq => ?_⟩
    · simp [decTurn_of_valid hvalid, hready]
    · simp [decTurn_of_valid hvalid, hready, State.onDec, decMove]
    · simp [step_takeDec hvalid, State.onDec, decMove, hq]

/-! ### Moved bytes (R40, R152) -/

theorem decOutWrite_out_prefix (v : Byte) (d : DecState) : d.out <+: (decOutWrite v d).out := by
  rcases decOutWrite_cases v d with ⟨_, _, h⟩ | ⟨_, h⟩ <;> rw [h]
  exact List.prefix_append _ _

theorem decEmit_out_prefix (v : Byte) (d : DecState) : d.out <+: (decEmit v d).out := by
  cases hp : d.phase with
  | run =>
    rw [decEmit_run v hp]
    exact decOutWrite_out_prefix v d
  | done => rw [decEmit_done v hp]

theorem decStop_out (why : DecStatus) (d : DecState) : (decStop why d).out = d.out := by
  obtain ⟨_, _, _, _, hout, _⟩ := decStop_frame why d
  exact hout

theorem encTurn_out_prefix {s t : State} (h : encTurn s = .next t) : s.enc.out <+: t.enc.out := by
  rcases encTurn_cases h with ⟨_, rfl⟩ | ⟨_, _, rfl⟩ | ⟨_, _, rfl⟩ | ⟨_, _, rfl⟩ | ⟨tok, rest, _, _, _, rfl⟩ |
    ⟨_, _, _, rfl⟩
  case inr.inl => exact List.prefix_append _ _
  case inr.inr.inr.inr.inl => exact (encFrame_encTake tok { s.enc with inp := rest }).out_prefix
  all_goals exact List.prefix_rfl

theorem decTurn_out_prefix {s t : State} (h : decTurn s = .next t) : s.dec.out <+: t.dec.out := by
  rcases decTurn_cases h with ⟨_, rfl⟩ | ⟨_, _, rfl⟩ | ⟨_, _, rfl⟩ | ⟨_, _, rfl⟩ | ⟨_, _, _, _, hanswer⟩
  case inr.inl => exact List.prefix_append _ _
  case inr.inr.inr.inr =>
    rcases decRun_cases hanswer with
      ⟨_, after, _, _, rfl, ⟨v, rfl⟩ | ⟨why, _, rfl⟩⟩ | ⟨why, after, _, rfl⟩ | ⟨_, _, rfl⟩
    · exact decEmit_out_prefix v (decMoveTo after s.dec)
    · rw [onDec_dec, decStop_out, decMoveTo_out]
    · rw [onDec_dec, decStop_out, decMoveTo_out]
    · exact List.prefix_rfl
  all_goals exact List.prefix_rfl

theorem hostAct_out_prefix {a : HostAction} {s t : State} (h : hostAct a s = .next t) :
    s.enc.out <+: t.enc.out ∧ s.dec.out <+: t.dec.out := by
  cases a with
  | letEnc => exact ⟨encTurn_out_prefix h, by rw [(encTurn_dec_host h).1]⟩
  | letDec => exact ⟨by rw [decTurn_enc h], decTurn_out_prefix h⟩
  | takeEnc =>
    obtain rfl := Host.Outcome.next.inj h
    refine ⟨?_, List.prefix_rfl⟩
    rw [onEnc_enc]
    split
    · exact List.prefix_append _ _
    · exact List.prefix_rfl
  | takeDec =>
    obtain rfl := Host.Outcome.next.inj h
    refine ⟨List.prefix_rfl, ?_⟩
    rw [onDec_dec]
    split
    · exact List.prefix_append _ _
    · exact List.prefix_rfl
  | dropEnc =>
    obtain rfl := Host.Outcome.next.inj h
    refine ⟨?_, List.prefix_rfl⟩
    rw [onEnc_enc]
    split <;> exact List.prefix_rfl
  | dropDec =>
    obtain rfl := Host.Outcome.next.inj h
    refine ⟨List.prefix_rfl, ?_⟩
    rw [onDec_dec]
    split <;> exact List.prefix_rfl
  | offerEnc _ | offerDec _ | driveEncRst _ | driveDecRst _ | driveEncReady _ | driveDecReady _ =>
    obtain rfl := Host.Outcome.next.inj h
    exact ⟨List.prefix_rfl, List.prefix_rfl⟩

/-- Settles O5: a block's own step and an action of the host only lengthen what has moved. -/
theorem movedBytesStayWithTheHost : Obligations.MovedBytesStayWithTheHost := by
  intro s t h
  cases hh : s.host with
  | nil =>
    obtain ⟨m, henc, hdec⟩ := step_of_host_nil hh h
    refine ⟨?_, ?_⟩
    · rw [decTurn_enc hdec]
      exact encTurn_out_prefix henc
    · rw [← (encTurn_dec_host henc).1]
      exact decTurn_out_prefix hdec
  | cons a rest =>
    rw [step_of_host_cons hh] at h
    exact hostAct_out_prefix (s := { s with host := rest }) h

/-! ### The step is `exec` of the decoded field (R111) -/

theorem decTurn_exec {s : State} {i : Instr} {after : Cursor} (hmay : decMayStep s = true)
    (h : decode (decCursor s.dec) = .instr i after) : decTurn s = exec i (s.onDec (decMoveTo after)) := by
  rw [decTurn_of_mayStep hmay, h]
  rfl

/-- Settles O6: when the host lets DEC move, the step is DEC's; when no action is pending, DEC's follows ENC's. -/
theorem stepRunsTheDecodedInstruction : Obligations.StepRunsTheDecodedInstruction := by
  refine fun s i after => ⟨fun hmay h => decTurn_exec hmay h, fun t hhost henc hmay h => ?_⟩
  rw [step, coreStep, hhost]
  simp only [bothTurns, henc]
  exact decTurn_exec hmay h

/-! ### Words of the opcode table (log 14, log 15) -/

/-- A table word of a row of slots: with a token if the field there needs one. -/
theorem tableCursor_of_slotBits {w n : Nat} (hbits : tableSlotBits 8 w = n) (hslots : n ≠ 0) :
    tableCursor 8 w = ⟨BitVec.ofNat 8 w, BitVec.ofNat 4 n,
      if needsToken ⟨BitVec.ofNat 8 w, BitVec.ofNat 4 n, []⟩ then [.byte 0#8] else []⟩ := by
  subst hbits
  rw [tableCursor, if_neg hslots]
  dsimp only
  split <;> rfl

/-- The cursor of an 8-bit table word: the sentinel as the next token, or the last one or two slots of a control byte, with a
token if the field there needs one. -/
theorem tableCursor_cases (w : Nat) :
    tableCursor 8 w = ⟨0#8, 0#4, [.byte Config.sentinel]⟩ ∨
      ∃ ctrl rem, (rem = 2#4 ∨ rem = 4#4)
        ∧ tableCursor 8 w = ⟨ctrl, rem, if needsToken ⟨ctrl, rem, []⟩ then [.byte 0#8] else []⟩ := by
  have hbits : tableSlotBits 8 w = if w % 256 = 1 then 0 else if w / 4 % 4 = 1 then 4 else 2 := rfl
  by_cases hsent : w % 256 = 1
  · have hbyte : BitVec.ofNat 8 w = Config.sentinel := BitVec.eq_of_toNat_eq hsent
    exact .inl (by simp [tableCursor, hbits, hsent, hbyte])
  · by_cases hfour : w / 4 % 4 = 1
    · exact .inr ⟨_, 4#4, .inr rfl, tableCursor_of_slotBits (by rw [hbits, if_neg hsent, if_pos hfour]) (by decide)⟩
    · exact .inr ⟨_, 2#4, .inl rfl, tableCursor_of_slotBits (by rw [hbits, if_neg hsent, if_neg hfour]) (by decide)⟩

/-- A cursor that holds one token exactly if its field needs one has none left after the field. -/
theorem decode_exact_inp {ctrl : Byte} {rem : BitVec 4} {i : Instr} {after : Cursor} {tok : DecToken}
    (h : decode ⟨ctrl, rem, if needsToken ⟨ctrl, rem, []⟩ then [tok] else []⟩ = .instr i after) : after.inp = [] := by
  have hanswer := h ▸ decode_answer ⟨ctrl, rem, if needsToken ⟨ctrl, rem, []⟩ then [tok] else []⟩
  by_cases hneeds : needsToken ⟨ctrl, rem, []⟩ = true
  · rw [if_pos hneeds] at hanswer
    obtain ⟨k, hk, _, htaken⟩ := hanswer.takes_one_or_two hneeds (List.cons_ne_nil _ _)
    exact htaken.trans (List.drop_eq_nil_of_le (by simp; omega))
  · rw [if_neg hneeds] at hanswer
    exact hanswer.takes_none (Bool.eq_false_of_not_eq_true hneeds)

/-- The field of a table word, placed in front of the tokens already offered. -/
theorem decode_placed {s : State} {w : Nat} {i : Instr} (h : decodeTableWord 8 w = some i) :
    ∃ after, decode (decCursor (s.withFetchWord 8 w).dec) = .instr i after ∧ after.inp = s.dec.inp := by
  obtain ⟨a, ha⟩ : ∃ a, decode (tableCursor 8 w) = .instr i a := by
    rw [decodeTableWord] at h
    split at h
    next j a hj => exact ⟨a, by rw [hj, Option.some.inj h]⟩
    all_goals cases h
  rcases tableCursor_cases w with hcur | ⟨ctrl, rem, hrem, hcur⟩
  · rw [hcur, decode_boundary_sentinel rfl rfl] at ha
    obtain ⟨rfl, -⟩ := Decoded.instr.inj ha
    refine ⟨⟨s.dec.ctrl, 0#4, s.dec.inp⟩, ?_, rfl⟩
    have hplaced : decCursor (s.withFetchWord 8 w).dec = ⟨s.dec.ctrl, 0#4, .byte Config.sentinel :: s.dec.inp⟩ := by
      simp [State.withFetchWord, placeTableWord, decCursor, hcur]
    rw [hplaced, decode_boundary_sentinel rfl rfl]
  · have hinside : rem ≠ 0#4 := by rcases hrem with rfl | rfl <;> decide
    have hplaced : decCursor (s.withFetchWord 8 w).dec = offered s.dec.inp (tableCursor 8 w) := by
      simp [State.withFetchWord, placeTableWord, decCursor, offered, hcur, hinside]
    refine ⟨offered s.dec.inp a, ?_, ?_⟩
    · rw [hplaced, (decode_answer _).resumes, ha]
      rfl
    · rw [hcur] at ha
      rw [offered, decode_exact_inp ha, List.nil_append]

theorem decMayStep_withFetchWord (s : State) (w : Nat) : decMayStep (s.withFetchWord 8 w) = true := by
  refine decMayStep_iff.mpr ⟨rfl, rfl, rfl, ?_⟩
  have hrem : (s.withFetchWord 8 w).dec.rem = (tableCursor 8 w).rem := rfl
  rcases tableCursor_cases w with hcur | ⟨_, _, rfl | rfl, hcur⟩ <;> simp [decLegal, hrem, hcur]

/-- Settles O7: the host lets DEC move, and DEC reads the placed field in front of its own tokens. -/
theorem placedTableWordRunsNext : Obligations.PlacedTableWordRunsNext := by
  intro s w i h
  obtain ⟨after, hdecode, hinp⟩ := decode_placed (s := s) h
  have hturn : step (s.withFetchWord 8 w) = decTurn { s.withFetchWord 8 w with host := s.host } := rfl
  refine ⟨{ s.withFetchWord 8 w with host := s.host }.onDec (decMoveTo after), ?_, rfl, rfl, rfl, rfl, rfl, hinp, rfl, rfl⟩
  rw [hturn]
  exact decTurn_exec (decMayStep_withFetchWord s w) hdecode

end Sys2Proof.Proofs
end

section
/-! ENC's choice of a field (R88 to R92), and the slots and literals a pass leaves waiting (R93 to R97). -/

namespace Sys2Proof.Proofs

open Sys2Proof.Machine Sys2Proof.Safety

/-! ### The choice (R88 to R92) -/

theorem eqByte_eq_false_iff {x : OptByte} {b : Byte} : x.eqByte b = false ↔ x.isDef = false ∨ x.val ≠ b := by
  cases hd : x.isDef <;> simp [OptByte.eqByte, hd]

theorem encChoose_rep1 {p0 p1 : OptByte} {b : Byte} (h1 : p1.eqByte b = true) : encChoose p0 p1 b = .rep1 := by
  simp [encChoose, h1]

theorem encChoose_rep2 {p0 p1 : OptByte} {b : Byte} (h1 : p1.eqByte b = false) (h0 : p0.eqByte b = true) :
    encChoose p0 p1 b = .rep2 := by
  simp [encChoose, h1, h0]

section
variable {p0 p1 : OptByte} {b : Byte} (h1 : p1.eqByte b = false) (h0 : p0.eqByte b = false)
include h1 h0

theorem encChoose_modp {i : BitVec 2} (hi : lowestIndex b (odr p1) = some i) : encChoose p0 p1 b = .modp i := by
  simp [encChoose, h1, h0, hi]

theorem encChoose_lit (hi : lowestIndex b (odr p1) = none) : encChoose p0 p1 b = .lit b := by
  simp [encChoose, h1, h0, hi]

end

/-- The options of a defined byte. -/
theorem odr_of_isDef {x : OptByte} (h : x.isDef = true) : odr x = [opt0 x.val, opt1 x.val, opt2 x.val, opt3 x.val] := by
  rw [odr, if_pos h]

theorem odr_length_le (x : OptByte) : (odr x).length ≤ 4 := by
  rw [odr]
  split <;> simp

/-- Settles O25: the tests of the pass in their order, with the search for the lowest index. -/
theorem encoderChoosesInOrder : Obligations.EncoderChoosesInOrder := by
  refine fun p0 p1 b => ⟨fun h1 => encChoose_rep1 (eqByte_iff.mpr h1), fun h1 => ?_⟩
  rw [← eqByte_eq_false_iff] at h1
  refine ⟨fun h0 => encChoose_rep2 h1 (eqByte_iff.mpr h0), fun h0 => ?_⟩
  rw [← eqByte_eq_false_iff] at h0
  refine ⟨fun i hdef hi hlow => ?_, fun hno => ?_⟩
  · have hfind : (odr p1).findIdx? (· == b) = some i.val := by
      rw [odr_of_isDef hdef, List.findIdx?_eq_some_iff_getElem]
      refine ⟨i.isLt, by simpa using hi, fun j hj => ?_⟩
      simpa using hlow ⟨j, hj.trans i.isLt⟩ hj
    exact encChoose_modp h1 h0 (by rw [lowestIndex, hfind]; rfl)
  · have hfind : (odr p1).findIdx? (· == b) = none := by
      rcases hno with hundef | ⟨hn0, hn1, hn2, hn3⟩
      · rw [odr_undef hundef]
        rfl
      · cases hdef : p1.isDef with
        | false => rw [odr_undef hdef]; rfl
        | true => simp [odr_of_isDef hdef, hn0, hn1, hn2, hn3]
    exact encChoose_lit h1 h0 (by rw [lowestIndex, hfind]; rfl)

/-- The index ENC finds is one at which the byte stands among the options. -/
theorem getElem?_of_lowestIndex {b : Byte} {x : OptByte} {i : BitVec 2} (h : lowestIndex b (odr x) = some i) :
    (odr x)[i.toNat]? = some b := by
  obtain ⟨k, hk, rfl⟩ := Option.map_eq_some_iff.mp h
  obtain ⟨hlen, hb, _⟩ := List.findIdx?_eq_some_iff_getElem.mp hk
  have hnat : (BitVec.ofNat 2 k).toNat = k := by
    have := odr_length_le x
    simp
    omega
  rw [hnat, List.getElem?_eq_getElem hlen]
  simpa using hb

/-- Every choice ENC can make for `b`, each an instruction that stands for `b` with this history. -/
theorem encChoose_cases (p0 p1 : OptByte) (b : Byte) :
    (p1 = .ofByte b ∧ encChoose p0 p1 b = .rep1) ∨ (p0 = .ofByte b ∧ encChoose p0 p1 b = .rep2) ∨
      (∃ i, (odr p1)[i.toNat]? = some b ∧ encChoose p0 p1 b = .modp i) ∨ encChoose p0 p1 b = .lit b := by
  cases h1 : p1.eqByte b with
  | true => exact .inl ⟨eqByte_iff.mp h1, encChoose_rep1 h1⟩
  | false =>
    cases h0 : p0.eqByte b with
    | true => exact .inr (.inl ⟨eqByte_iff.mp h0, encChoose_rep2 h1 h0⟩)
    | false =>
      cases hi : lowestIndex b (odr p1) with
      | some i => exact .inr (.inr (.inl ⟨i, getElem?_of_lowestIndex hi, encChoose_modp h1 h0 hi⟩))
      | none => exact .inr (.inr (.inr (encChoose_lit h1 h0 hi)))

theorem encField_ne_sent (b : Byte) (e : EncState) : encField b e ≠ .sent := by
  rcases encChoose_cases e.p0 e.p1 b with ⟨_, h⟩ | ⟨_, h⟩ | ⟨_, _, h⟩ | h <;> rw [encField, h] <;> simp

/-! ### The literals that belong to waiting slots (R19) -/

section
variable {s : Slot} (rest : List Slot)

theorem litCount_literal (hop : OpCode.ofSlot s = .literal) : litCount (s :: rest) = (litCount rest).map (· + 1) := by
  rw [litCount.eq_def]
  simp only [hop]

/-- The slot behind a MODP is its selector. -/
theorem litCount_modifyPrev (sel : Slot) (hop : OpCode.ofSlot s = .modifyPrev) :
    litCount (s :: sel :: rest) = litCount rest := by
  rw [litCount.eq_def]
  simp only [hop]

theorem litCount_modifyPrev_alone (hop : OpCode.ofSlot s = .modifyPrev) : litCount [s] = none := by
  rw [litCount.eq_def]
  simp only [hop]

theorem litCount_repeat (hop : OpCode.ofSlot s = .repeatSecondLast ∨ OpCode.ofSlot s = .repeatLast) :
    litCount (s :: rest) = litCount rest := by
  rw [litCount.eq_def]
  rcases hop with hop | hop <;> simp only [hop]

end

theorem litCount_append {slots : List Slot} {n : Nat} (h : litCount slots = some n) (more : List Slot) :
    litCount (slots ++ more) = (litCount more).map (n + ·) := by
  induction slots using litCount.induct generalizing n with
  | case1 =>
    obtain rfl : 0 = n := by simpa [litCount] using h
    simp
  | case2 s rest hop ih =>
    rw [litCount_literal rest hop, Option.map_eq_some_iff] at h
    obtain ⟨m, hm, rfl⟩ := h
    rw [List.cons_append, litCount_literal _ hop, ih hm]
    simp [Function.comp_def, Nat.add_right_comm]
  | case3 s hop => simp [litCount_modifyPrev_alone hop] at h
  | case4 s hop sel rest ih =>
    rw [litCount_modifyPrev rest sel hop] at h
    rw [List.cons_append, List.cons_append, litCount_modifyPrev _ sel hop, ih h]
  | case5 s rest hop ih =>
    rw [litCount_repeat rest (.inl hop)] at h
    rw [List.cons_append, litCount_repeat _ (.inl hop), ih h]
  | case6 s rest hop ih =>
    rw [litCount_repeat rest (.inr hop)] at h
    rw [List.cons_append, litCount_repeat _ (.inr hop), ih h]

theorem litCount_le {slots : List Slot} {n : Nat} (h : litCount slots = some n) : n ≤ slots.length := by
  induction slots using litCount.induct generalizing n with
  | case1 =>
    obtain rfl : 0 = n := by simpa [litCount] using h
    exact Nat.le_refl 0
  | case2 s rest hop ih =>
    rw [litCount_literal rest hop, Option.map_eq_some_iff] at h
    obtain ⟨m, hm, rfl⟩ := h
    exact Nat.succ_le_succ (ih hm)
  | case3 s hop => simp [litCount_modifyPrev_alone hop] at h
  | case4 s hop sel rest ih =>
    rw [litCount_modifyPrev rest sel hop] at h
    exact (ih h).trans (by simp; omega)
  | case5 s rest hop ih =>
    rw [litCount_repeat rest (.inl hop)] at h
    exact (ih h).trans (Nat.le_succ _)
  | case6 s rest hop ih =>
    rw [litCount_repeat rest (.inr hop)] at h
    exact (ih h).trans (Nat.le_succ _)

theorem litCount_slotsOf {i : Instr} (h : i ≠ .sent) : litCount (slotsOf i) = some (literalsOf i).length := by
  cases i with
  | sent => exact absurd rfl h
  | lit _ | modp _ | rep2 | rep1 => rfl

/-- `n` is the number of LIT op-codes in waiting slots, the first of which may be a selector left over by a flush (R19). -/
def CountsLits (slots : List Slot) (n : Nat) : Prop :=
  litCount slots = some n ∨ (slots ≠ [] ∧ litCount slots.tail = some n)

theorem CountsLits.le {slots : List Slot} {n : Nat} (h : CountsLits slots n) : n ≤ slots.length := by
  rcases h with h | ⟨_, h⟩
  · exact litCount_le h
  · exact (litCount_le h).trans (by simp)

theorem countsLits_of_length_le_one {slots : List Slot} (h : slots.length ≤ 1) : CountsLits slots 0 := by
  match slots, h with
  | [], _ => exact .inl rfl
  | [s], _ => exact .inr ⟨List.cons_ne_nil _ _, rfl⟩

theorem CountsLits.append_field {slots : List Slot} {n : Nat} (h : CountsLits slots n) {i : Instr} (hi : i ≠ .sent) :
    CountsLits (slots ++ slotsOf i) (n + (literalsOf i).length) := by
  rcases h with h | ⟨hne, h⟩
  · exact .inl (by rw [litCount_append h, litCount_slotsOf hi]; rfl)
  · refine .inr ⟨by simp [hne], ?_⟩
    rw [List.tail_append_of_ne_nil hne, litCount_append h, litCount_slotsOf hi]
    rfl

/-! ### ENC's registers with these slots and literals waiting -/

/-- ENC holds exactly these slots and literals, no bit stands above them, and the literals are those of the LIT op-codes. -/
structure EncFilled (slots : List Slot) (lits : List Byte) (e : EncState) : Prop extends EncHolds slots lits e where
  acc_lt : e.acc.toNat < 2 ^ (2 * slots.length)
  counts : CountsLits slots lits.length

/-- It is a matter of four registers. -/
theorem EncFilled.congr {slots : List Slot} {lits : List Byte} {e e' : EncState} (h : EncFilled slots lits e)
    (hacc : e'.acc = e.acc) (haccn : e'.accn = e.accn) (hlit : e'.lit = e.lit) (hlitn : e'.litn = e.litn) :
    EncFilled slots lits e' :=
  ⟨⟨by rw [haccn, h.accn_eq], by rw [← h.slots_eq, accSlots, hacc, haccn]; rfl, by rw [hlitn, h.litn_eq],
    by rw [← h.lits_eq, encPending, hlit, hlitn]; rfl⟩, by rw [hacc]; exact h.acc_lt, h.counts⟩

theorem encAppend_acc_lt {e : EncState} {n : Nat} (v : Slot) (h : e.acc.toNat < 2 ^ (2 * n)) :
    (encAppend v e).acc.toNat < 2 ^ (2 * (n + 1)) := by
  have hpow : 2 ^ (2 * (n + 1)) = 2 ^ (2 * n) * 4 := by rw [Nat.mul_add, Nat.pow_add]
  have hshift : e.acc.toNat <<< 2 < 2 ^ (2 * (n + 1)) := by
    rw [Nat.shiftLeft_eq, hpow]
    omega
  have hv : v.toNat < 2 ^ (2 * (n + 1)) := by
    have := v.isLt
    have := Nat.two_pow_pos (2 * n)
    omega
  simp only [encAppend_acc, BitVec.toNat_or, BitVec.toNat_shiftLeft, BitVec.toNat_setWidth]
  exact Nat.or_lt_two_pow ((Nat.mod_le _ _).trans_lt hshift) ((Nat.mod_le _ _).trans_lt hv)

theorem encAppendAll_acc_lt (new : List Slot) {e : EncState} {n : Nat} (h : e.acc.toNat < 2 ^ (2 * n)) :
    (encAppendAll new e).acc.toNat < 2 ^ (2 * (n + new.length)) := by
  induction new generalizing e n with
  | nil => exact h
  | cons v new ih =>
    rw [List.length_cons, Nat.add_comm new.length 1, ← Nat.add_assoc]
    exact ih (encAppend_acc_lt v h)

theorem encGather_acc (b : Byte) (e : EncState) :
    (encGather b e).acc = (encAppendAll (slotsOf (encField b e)) e).acc := by
  rw [encGather, encHistory_acc, encRecord]
  cases encField b e <;> rfl

/-- The bits a flush leaves are those below the eight it writes (R95). -/
theorem encLeftover_lt {e : EncState} {n : Nat} (haccn : e.accn.toNat = 2 * (4 + n)) (hn : n ≤ 1) :
    (encLeftover e).toNat < 2 ^ (2 * n) := by
  have hmask : encLeftover e = e.acc &&& ((1#10 <<< (2 * n)) - 1#10) := by
    rw [encLeftover, haccn]
    congr 3
    omega
  rw [hmask, BitVec.toNat_and]
  refine Nat.and_le_right.trans_lt ?_
  interval_cases n <;> decide

/-! ### What a field makes of the waiting slots (R95, R96) -/

/-- With the field `i` behind them, waiting slots and literals wait on, or the first four go out as a control byte, and the
literals with them. -/
inductive Packs (slots : List Slot) (lits : List Byte) (i : Instr) : List Slot → List Byte → List Byte → Prop where
  | short (h : (slots ++ slotsOf i).length < 4) : Packs slots lits i (slots ++ slotsOf i) (lits ++ literalsOf i) []
  | full {s0 s1 s2 s3 : Slot} {spare : List Slot} (h : slots ++ slotsOf i = s0 :: s1 :: s2 :: s3 :: spare) :
      Packs slots lits i spare [] (packByte s0 s1 s2 s3 :: (lits ++ literalsOf i))

section
variable {slots slots' : List Slot} {lits lits' out : List Byte} {i : Instr}

/-- The slots count on modulo four. -/
theorem Packs.length_eq (h : Packs slots lits i slots' lits' out) (hs : slots.length < 4) (hi : (slotsOf i).length ≤ 4) :
    slots'.length = (slots.length + (slotsOf i).length) % 4 := by
  cases h with
  | short h =>
    rw [List.length_append] at *
    omega
  | full h =>
    have hlen := congrArg List.length h
    simp only [List.length_append, List.length_cons] at hlen
    omega

/-- A chunk is the control byte and at most four literals (R6). -/
theorem Packs.out_length_le (h : Packs slots lits i slots' lits' out) (hl : lits.length ≤ 3)
    (hi : (literalsOf i).length ≤ 1) : out.length ≤ 5 := by
  cases h with
  | short => simp
  | full h => simp; omega

end

section
variable {slots : List Slot} {lits : List Byte} {e : EncState} (b : Byte)

theorem EncFilled.gather (h : EncFilled slots lits e) (hs : slots.length < 4) :
    EncFilled (slots ++ slotsOf (encField b e)) (lits ++ literalsOf (encField b e)) (encGather b e) := by
  have hl := h.counts.le
  refine ⟨h.toEncHolds.gather b (by omega) (by omega), ?_, ?_⟩
  · rw [encGather_acc, List.length_append]
    exact encAppendAll_acc_lt _ h.acc_lt
  · rw [List.length_append]
    exact h.counts.append_field (encField_ne_sent b e)

/-- A pass packs the chosen field behind what waits; what goes out is written, and a control byte 0x01 raises the flag (R97). -/
theorem EncFilled.pass (h : EncFilled slots lits e) (hs : slots.length < 4) :
    ∃ slots' lits' out, Packs slots lits (encField b e) slots' lits' out ∧ EncFilled slots' lits' (encPass b e)
      ∧ encWritten (encPass b e) = encWritten e ++ out
      ∧ (encPass b e).coll = (e.coll || out.head? == some Config.sentinel) := by
  have hl := h.counts.le
  have hgather := h.gather b hs
  obtain ⟨hwritten, hcoll, _⟩ := encGather_frame b e
  by_cases hshort : (slots ++ slotsOf (encField b e)).length < 4
  · rw [h.toEncHolds.pass_short b (by omega) (by omega) hshort]
    exact ⟨_, _, _, .short hshort, hgather, by rw [hwritten, List.append_nil], by simp [hcoll]⟩
  · obtain ⟨s0, s1, s2, s3, spare, hfull⟩ := exists_four_of_le_length (Nat.le_of_not_lt hshort)
    obtain ⟨hpass, hcontrol, hspare⟩ := h.toEncHolds.pass_full b (by omega) (by omega) hfull
    obtain ⟨hacc, _, _, hflush, _⟩ := encFlush_registers (encGather b e)
    have hlen : spare.length ≤ 1 := by
      have := (encField_size b e).1
      have hlen := congrArg List.length hfull
      simp only [List.length_append, List.length_cons] at hlen
      omega
    have hcount : (encGather b e).accn.toNat = 2 * (4 + spare.length) := by
      rw [hgather.accn_eq, hfull]
      simp only [List.length_cons]
      omega
    refine ⟨_, _, _, .full hfull, ⟨hspare, ?_, countsLits_of_length_le_one hlen⟩, ?_, ?_⟩
    · rw [hpass, hacc]
      exact encLeftover_lt hcount hlen
    · rw [hpass, encWritten_encFlush, hwritten, hcontrol, hgather.lits_eq]
    · rw [hpass, hflush, hcoll, hcontrol]
      rfl

end

end Sys2Proof.Proofs
end

section
/-! ENC's steps from rest (41_encoder.md): a byte makes one pass, and `END` makes the pad passes and writes the sentinel. -/

namespace Sys2Proof.Proofs

open Sys2Proof.Machine Sys2Proof.Safety

/-! ### The registers at rest -/

/-- The history order of R34, with nothing pending before the first byte (R31). -/
def HistoryAtRest (slots : List Slot) (e : EncState) : Prop :=
  (e.p0.isDef = true → e.p1.isDef = true) ∧ (e.p1.isDef = true ∨ slots = [])

/-- Whether ENC is in its run, in its end of input with bytes waiting, or in `DONE` (R20; log 1). -/
def EncPhaseAtRest (slots : List Slot) (e : EncState) : Prop :=
  (e.phase = .run ∧ e.closing = false) ∨
    (slots = [] ∧ e.phase = .run ∧ e.closing = true ∧ e.outq ≠ []) ∨
    (slots = [] ∧ e.phase = .done ∧ e.closing = false ∧ e.outq = [])

theorem EncHolds.accn_eq_zero_iff {slots : List Slot} {lits : List Byte} {e : EncState} (h : EncHolds slots lits e) :
    e.accn = 0#4 ↔ slots = [] := by
  rw [← BitVec.toNat_inj, h.accn_eq, ← List.length_eq_zero_iff]
  simp

theorem litnCountsLits_iff {slots : List Slot} {lits : List Byte} {e : EncState} (h : EncHolds slots lits e) :
    litnCountsLits e = true ↔ CountsLits slots lits.length := by
  simp [litnCountsLits, CountsLits, h.slots_eq, h.litn_eq, h.accn_eq_zero_iff]

/-- The invariant `encRest`, read on the slots and literals that ENC holds; the rest of it is a truth table of the flags. -/
theorem encRest_iff_of_holds {slots : List Slot} {lits : List Byte} {e : EncState} (h : EncHolds slots lits e) :
    encRest e = true ↔ encLegal e = true ∧ e.acc.toNat < 2 ^ (2 * slots.length) ∧ CountsLits slots lits.length
      ∧ HistoryAtRest slots e ∧ EncPhaseAtRest slots e := by
  rw [← litnCountsLits_iff h, ← h.accn_eq, HistoryAtRest, EncPhaseAtRest, ← h.accn_eq_zero_iff]
  simp only [encRest, Bool.and_eq_true, decide_eq_true_eq, and_assoc]
  cases e.p0.isDef <;> cases e.p1.isDef <;> cases e.phase <;> cases e.closing <;> simp

theorem encRest_iff {e : EncState} :
    encRest e = true ↔ ∃ slots lits, EncFilled slots lits e ∧ slots.length < 4 ∧ HistoryAtRest slots e
      ∧ EncPhaseAtRest slots e := by
  constructor
  · intro h
    have hlegal : encLegal e = true := by
      simp only [encRest, Bool.and_eq_true] at h
      tauto
    have hholds := EncHolds.of_encLegal hlegal
    obtain ⟨_, hs, _⟩ := encLegal_iff.mp hlegal
    obtain ⟨_, hacc, hcounts, hhistory, hphase⟩ := (encRest_iff_of_holds hholds).mp h
    exact ⟨_, _, ⟨hholds, hacc, hcounts⟩, hs, hhistory, hphase⟩
  · rintro ⟨slots, lits, hfilled, hs, hhistory, hphase⟩
    have hl := hfilled.counts.le
    exact (encRest_iff_of_holds hfilled.toEncHolds).mpr
      ⟨hfilled.legal hs (by omega), hfilled.acc_lt, hfilled.counts, hhistory, hphase⟩

/-- From rest, a ready ENC is not at the end of its input. -/
theorem EncPhaseAtRest.not_closing {slots : List Slot} {e : EncState} (h : EncPhaseAtRest slots e)
    (hready : encInReady e = true) : e.phase = .run ∧ e.closing = false := by
  obtain ⟨_, hrun, houtq⟩ := encInReady_iff.mp hready
  rcases h with h | ⟨_, _, _, hwait⟩ | ⟨_, hdone, _⟩
  · exact h
  · exact absurd houtq hwait
  · simp [hrun] at hdone

/-! ### The tokens behind the one taken do not matter -/

/-- ENC with these tokens offered. -/
def withInp (inp : List EncToken) (e : EncState) : EncState := { e with inp := inp }

theorem encOutWrite_withInp (bytes : List Byte) (inp : List EncToken) (e : EncState) :
    encOutWrite bytes (withInp inp e) = withInp inp (encOutWrite bytes e) := by
  rw [encOutWrite, encOutWrite, apply_ite (withInp inp)]
  rfl

theorem encFlush_withInp (inp : List EncToken) (e : EncState) : encFlush (withInp inp e) = withInp inp (encFlush e) := by
  rw [encFlush, encFlush, ← encOutWrite_withInp]
  rfl

theorem encGather_withInp (b : Byte) (inp : List EncToken) (e : EncState) :
    encGather b (withInp inp e) = withInp inp (encGather b e) := by
  have hfield : encField b (withInp inp e) = encField b e := rfl
  rw [encGather, encGather, hfield]
  cases encField b e <;> rfl

theorem encPass_withInp (b : Byte) (inp : List EncToken) (e : EncState) :
    encPass b (withInp inp e) = withInp inp (encPass b e) := by
  rw [encPass_eq, encPass_eq, encGather_withInp, encFlushFull, encFlushFull, encFlush_withInp, apply_ite (withInp inp)]
  rfl

theorem encPad_withInp (fuel : Nat) (inp : List EncToken) (e : EncState) :
    encPad fuel (withInp inp e) = withInp inp (encPad fuel e) := by
  induction fuel generalizing e with
  | zero => rfl
  | succ fuel ih =>
    rw [encPad, encPad, encPass_withInp, ih, apply_ite (withInp inp)]
    rfl

/-! ### A pass from rest -/

/-- After a pass `p1` is defined (R94), so the history is in order. -/
theorem historyAtRest_encPass (slots : List Slot) (b : Byte) (e : EncState) : HistoryAtRest slots (encPass b e) := by
  obtain ⟨_, hp1, _⟩ := encPass_frame b e
  simp [HistoryAtRest, hp1, OptByte.ofByte]

theorem packs_encField_length_lt {slots slots' : List Slot} {lits lits' out : List Byte} {b : Byte} {e : EncState}
    (h : Packs slots lits (encField b e) slots' lits' out) (hs : slots.length < 4) : slots'.length < 4 := by
  have hfield := (encField_size b e).1
  rw [h.length_eq hs (by omega)]
  exact Nat.mod_lt _ (by decide)

/-- A pass in the run keeps ENC at rest. -/
theorem encRest_encPass {e : EncState} (b : Byte) (h : encRest e = true) (hrun : e.phase = .run)
    (hopen : e.closing = false) : encRest (encPass b e) = true := by
  obtain ⟨slots, lits, hfilled, hs, _⟩ := encRest_iff.mp h
  obtain ⟨slots', lits', out, hpacks, hfilled', _⟩ := hfilled.pass b hs
  obtain ⟨_, _, hphase, hclosing, _⟩ := encPass_frame b e
  exact encRest_iff.mpr ⟨slots', lits', hfilled', packs_encField_length_lt hpacks hs, historyAtRest_encPass _ _ _,
    .inl ⟨hphase.trans hrun, hclosing.trans hopen⟩⟩

/-- A ready ENC takes the token it is offered. -/
theorem encTurn_takes {s : State} {tok : EncToken} {rest : List EncToken} (hlegal : encLegal s.enc = true)
    (hready : encInReady s.enc = true) (hinp : s.enc.inp = tok :: rest) :
    encTurn s = .next (s.onEnc fun e => encTake tok (withInp rest e)) := by
  obtain ⟨hrst, _, houtq⟩ := encInReady_iff.mp hready
  simp [encTurn, encOutValid, hrst, houtq, hready, hinp, hlegal, withInp]

theorem encLegal_of_encRest {e : EncState} (h : encRest e = true) : encLegal e = true := by
  simp only [encRest, Bool.and_eq_true] at h
  tauto

/-- Settles O28: the step is one pass, which neither reads nor writes the tokens behind. -/
theorem byteStepMakesOnePass : Obligations.ByteStepMakesOnePass := by
  intro s b rest hrest hready hinp
  obtain ⟨_, _, _, _, _, hphase⟩ := encRest_iff.mp hrest
  obtain ⟨hrun, hopen⟩ := hphase.not_closing hready
  refine ⟨?_, encRest_encPass b hrest hrun hopen⟩
  rw [encTurn_takes (encLegal_of_encRest hrest) hready hinp, State.onEnc, encTake, encPass_withInp]
  rfl

/-! ### The pad passes (R98, R103) -/

/-- How many pad passes `n` waiting slots take when the first one adds `k`: the later ones are REP1 and add one each. -/
def padPasses (n k : Nat) : Nat := if n = 0 then 0 else 1 + (8 - n - k) % 4

/-- The pad passes are passes over 0x00, as many as counted. -/
theorem encPad_eq_foldl (fuel : Nat) (e : EncState) :
    encPad fuel e = (List.replicate (encPadCount fuel e) Config.padByte).foldl (fun e b => encPass b e) e := by
  induction fuel generalizing e with
  | zero => rfl
  | succ fuel ih =>
    rw [encPad, encPadCount]
    split
    · rfl
    · rw [ih, List.replicate_succ, List.foldl_cons]

theorem encPad_of_empty {e : EncState} (h : e.accn = 0#4) (fuel : Nat) : encPad fuel e = e ∧ encPadCount fuel e = 0 := by
  cases fuel <;> simp [encPad, encPadCount, h]

theorem encPad_of_pending {e : EncState} (h : e.accn ≠ 0#4) (fuel : Nat) :
    encPad (fuel + 1) e = encPad fuel (encPass Config.padByte e)
      ∧ encPadCount (fuel + 1) e = encPadCount fuel (encPass Config.padByte e) + 1 := by
  simp [encPad, encPadCount, h]

/-- What pad passes come to: nothing waits, these bytes are written behind the others, and so many passes were made. -/
structure PadsTo (fuel : Nat) (e : EncState) (body : List Byte) (passes : Nat) : Prop where
  filled : EncFilled [] [] (encPad fuel e)
  written : encWritten (encPad fuel e) = encWritten e ++ body
  count : encPadCount fuel e = passes

theorem PadsTo.of_empty {e : EncState} {lits : List Byte} (h : EncFilled [] lits e) (fuel : Nat) : PadsTo fuel e [] 0 := by
  obtain rfl : lits = [] := List.eq_nil_of_length_eq_zero (Nat.le_zero.mp h.counts.le)
  obtain ⟨hpad, hcount⟩ := encPad_of_empty (h.accn_eq_zero_iff.mpr rfl) fuel
  exact ⟨by rwa [hpad], by rw [hpad, List.append_nil], hcount⟩

/-- One pad pass more in front. -/
theorem PadsTo.cons {e : EncState} {fuel passes : Nat} {out body : List Byte} (hpending : e.accn ≠ 0#4)
    (hwritten : encWritten (encPass Config.padByte e) = encWritten e ++ out)
    (h : PadsTo fuel (encPass Config.padByte e) body passes) : PadsTo (fuel + 1) e (out ++ body) (passes + 1) := by
  obtain ⟨hpad, hcount⟩ := encPad_of_pending hpending fuel
  refine ⟨by rw [hpad]; exact h.filled, ?_, by rw [hcount, h.count]⟩
  rw [hpad, h.written, hwritten, List.append_assoc]

/-- Once 0x00 is the last byte, each pad pass is one REP1 slot: the waiting slots are filled up to one chunk. -/
theorem EncFilled.padsTo_of_zero {slots : List Slot} {lits : List Byte} {e : EncState} {fuel : Nat}
    (h : EncFilled slots lits e) (hs : slots.length < 4) (hne : slots ≠ []) (hp1 : e.p1 = .ofByte Config.padByte)
    (hfuel : 4 ≤ fuel + slots.length) :
    ∃ c, PadsTo fuel e (c :: lits) (4 - slots.length) := by
  induction fuel generalizing slots lits e with
  | zero => omega
  | succ fuel ih =>
    have hfield : encField Config.padByte e = .rep1 := encChoose_rep1 (eqByte_iff.mpr hp1)
    have hpending : e.accn ≠ 0#4 := mt h.accn_eq_zero_iff.mp hne
    obtain ⟨slots', lits', out, hpacks, hfilled, hwritten, _⟩ := h.pass Config.padByte hs
    obtain ⟨_, hp1', _⟩ := encPass_frame Config.padByte e
    have hlits : lits ++ literalsOf (encField Config.padByte e) = lits := by rw [hfield]; exact List.append_nil _
    have hlen : (slots ++ slotsOf (encField Config.padByte e)).length = slots.length + 1 := by
      rw [hfield, List.length_append]
      rfl
    cases hpacks with
    | short hshort =>
      rw [hlits] at hfilled
      obtain ⟨c, hc⟩ := ih hfilled hshort (List.append_ne_nil_of_left_ne_nil hne _) hp1' (by omega)
      have hcount : 4 - slots.length = 4 - (slots ++ slotsOf (encField Config.padByte e)).length + 1 := by omega
      exact ⟨c, hcount ▸ hc.cons hpending hwritten⟩
    | @full s0 s1 s2 s3 _ hfull =>
      rw [hlits] at hwritten
      have hspare := congrArg List.length hfull
      simp only [hlen, List.length_cons] at hspare
      obtain rfl : slots' = [] := List.eq_nil_of_length_eq_zero (by omega)
      have hcount : 4 - slots.length = 0 + 1 := by omega
      have hpads := (PadsTo.of_empty hfilled fuel).cons hpending hwritten
      rw [List.append_nil, ← hcount] at hpads
      exact ⟨_, hpads⟩

/-- A field of two slots has no literal (R65). -/
theorem slots_literals_length_le {i : Instr} (h : i ≠ .sent) : (slotsOf i).length + (literalsOf i).length ≤ 2 := by
  cases i with
  | sent => exact absurd rfl h
  | lit _ | modp _ | rep2 | rep1 => simp [slotsOf, literalsOf]

/-- The pad passes of R98 from rest: the first one may take two slots or a literal, and after it 0x00 is the last byte. They
write at most one chunk with all the literals and, behind a selector that is left over, one more control byte. -/
theorem EncFilled.padsTo {slots : List Slot} {lits : List Byte} {e : EncState} (h : EncFilled slots lits e)
    (hs : slots.length < 4) :
    ∃ body, PadsTo 4 e body (padPasses slots.length (slotsOf (encField Config.padByte e)).length)
      ∧ body.length ≤ 5 ∧ (slots = [] → body = []) := by
  by_cases hne : slots = []
  · subst hne
    exact ⟨[], .of_empty h 4, by simp, fun _ => rfl⟩
  · have hpending : e.accn ≠ 0#4 := mt h.accn_eq_zero_iff.mp hne
    have hpos : 0 < slots.length := List.length_pos_iff.mpr hne
    have hl := h.counts.le
    obtain ⟨slots', lits', out, hpacks, hfilled, hwritten, _⟩ := h.pass Config.padByte hs
    obtain ⟨_, hp1, _⟩ := encPass_frame Config.padByte e
    obtain ⟨hslots, hlits⟩ := encField_size Config.padByte e
    have hs' := packs_encField_length_lt hpacks hs
    have hlen := hpacks.length_eq hs (by omega)
    by_cases hempty : slots' = []
    · subst hempty
      have hcount : padPasses slots.length (slotsOf (encField Config.padByte e)).length = 0 + 1 := by
        rw [List.length_nil] at hlen
        rw [padPasses, if_neg (by omega)]
        omega
      refine ⟨out ++ [], hcount ▸ (PadsTo.of_empty hfilled 3).cons hpending hwritten, ?_, fun h => absurd h hne⟩
      rw [List.append_nil]
      exact hpacks.out_length_le (by omega) hlits
    · have hpos' : 0 < slots'.length := List.length_pos_iff.mpr hempty
      obtain ⟨c, hc⟩ := hfilled.padsTo_of_zero (fuel := 3) hs' hempty hp1 (by omega)
      have hcount : padPasses slots.length (slotsOf (encField Config.padByte e)).length = 4 - slots'.length + 1 := by
        rw [padPasses, if_neg (by omega)]
        omega
      refine ⟨out ++ c :: lits', hcount ▸ hc.cons hpending hwritten, ?_, fun h => absurd h hne⟩
      cases hpacks with
      | short hshort =>
        have := hfilled.counts.le
        simp
        omega
      | full hfull =>
        have hfull := congrArg List.length hfull
        have hspare := slots_literals_length_le (encField_ne_sent Config.padByte e)
        simp only [List.length_append, List.length_cons] at hfull
        simp only [List.length_append, List.length_cons, List.length_nil]
        omega

theorem padPasses_le (n k : Nat) : padPasses n k ≤ 4 := by
  rw [padPasses]
  split <;> omega

/-- Settles O30: the table is `padPasses`. -/
theorem padPassTable : Obligations.PadPassTable := by
  intro e hrest
  obtain ⟨slots, lits, hfilled, hs, _⟩ := encRest_iff.mp hrest
  obtain ⟨body, hpads, _⟩ := hfilled.padsTo hs
  have haccn (n : Nat) (hn : n < 16) : e.accn = BitVec.ofNat 4 n ↔ 2 * slots.length = n := by
    rw [← BitVec.toNat_inj, hfilled.accn_eq, BitVec.toNat_ofNat, Nat.mod_eq_of_lt hn]
  have hpad : slotsOf (encChoose e.p0 e.p1 0x00#8) = slotsOf (encField Config.padByte e) := rfl
  rw [hpads.count, hpad, haccn 0 (by omega), haccn 2 (by omega), haccn 4 (by omega), haccn 6 (by omega)]
  refine ⟨hpads.filled.accn_eq_zero_iff.mpr rfl, padPasses_le _ _, ?_⟩
  generalize slots.length = n, (slotsOf (encField Config.padByte e)).length = k at *
  simp only [padPasses]
  split <;> omega

/-! ### The end of input (R98 to R100) -/

/-- The control part of ENC after pad passes. -/
theorem encPad_frame (fuel : Nat) (e : EncState) :
    (encPad fuel e).phase = e.phase ∧ (encPad fuel e).closing = e.closing
      ∧ (e.outReady = true → e.outq = [] → (encPad fuel e).outq = []) := by
  induction fuel generalizing e with
  | zero => exact ⟨rfl, rfl, fun _ h => h⟩
  | succ fuel ih =>
    obtain ⟨_, _, hphase, hclosing, _, _, hready⟩ := encPass_frame Config.padByte e
    obtain ⟨hp, hc, hq⟩ := ih (encPass Config.padByte e)
    rw [encPad]
    split
    · exact ⟨rfl, rfl, fun _ h => h⟩
    · exact ⟨hp.trans hphase, hc.trans hclosing,
        fun hr hempty => hq (hready.trans hr) (encPass_outq _ hr hempty)⟩

/-- The end either writes the sentinel and is in `DONE`, or leaves it waiting behind the pad passes' bytes. -/
theorem encEnd_cases {e : EncState} (houtq : e.outq = []) :
    (e.outReady = true ∧ (encPad 4 e).outq = [] ∧ encEnd e = { encPad 4 e with
        out := (encPad 4 e).out ++ [Config.sentinel], phase := .done }) ∨
      (e.outReady = false ∧ encEnd e = { encPad 4 e with
        outq := (encPad 4 e).outq ++ [Config.sentinel], closing := true }) := by
  have hready := (encFrame_encPad 4 e).outReady_eq
  obtain ⟨_, _, hq⟩ := encPad_frame 4 e
  rcases encOutWrite_cases [Config.sentinel] (encPad 4 e) with ⟨hr, hempty, hw⟩ | ⟨hn, hw⟩
  · refine .inl ⟨hready.symm.trans hr, hempty, ?_⟩
    rw [encEnd, Config.padMax, hw, encClose, if_pos (by simp [hempty])]
  · have hr : e.outReady = false := by
      rw [hready] at hn
      rcases hn with hn | hn
      · exact hn
      · exact Bool.eq_false_of_not_eq_true fun hr => hn (hq hr houtq)
    refine .inr ⟨hr, ?_⟩
    rw [encEnd, Config.padMax, hw, encClose, if_neg (by simp)]

theorem encWritten_encEnd (e : EncState) : encWritten (encEnd e) = encWritten (encPad 4 e) ++ [Config.sentinel] := by
  rw [encEnd, encClose]
  split <;> exact encWritten_encOutWrite _ _

/-- The end changes no more of the registers than the pad passes and the phase. -/
theorem encEnd_registers (e : EncState) :
    (encEnd e).accn = (encPad 4 e).accn ∧ (encEnd e).litn = (encPad 4 e).litn ∧ (encEnd e).coll = (encPad 4 e).coll
      ∧ (encEnd e).acc = (encPad 4 e).acc ∧ (encEnd e).lit = (encPad 4 e).lit ∧ (encEnd e).p0 = (encPad 4 e).p0
      ∧ (encEnd e).p1 = (encPad 4 e).p1 := by
  rcases encOutWrite_cases [Config.sentinel] (encPad 4 e) with ⟨_, _, hw⟩ | ⟨_, hw⟩ <;>
    (rw [encEnd, Config.padMax, hw, encClose]; split <;> exact ⟨rfl, rfl, rfl, rfl, rfl, rfl, rfl⟩)

theorem encMove_all_out (e : EncState) : (encMove e.outq.length e).out = encWritten e := by
  rw [encMove_out, List.take_length, encWritten]

/-- Where the end leaves the phase and the output port (R20, R100; log 1). -/
theorem encEnd_done_or_closing {e : EncState} (hrun : e.phase = .run) (houtq : e.outq = []) :
    (e.outReady = true ∧ (encEnd e).phase = .done ∧ (encEnd e).outq = []) ∨
      (e.outReady = false ∧ (encEnd e).phase = .run ∧ (encEnd e).closing = true ∧ (encEnd e).outq ≠ []) := by
  obtain ⟨hphase, _⟩ := encPad_frame 4 e
  rcases encEnd_cases houtq with ⟨hr, hempty, hend⟩ | ⟨hr, hend⟩ <;> rw [hend]
  · exact .inl ⟨hr, rfl, hempty⟩
  · exact .inr ⟨hr, hphase.trans hrun, rfl, by simp⟩

/-- Settles O29: the pad passes empty what waits, and the sentinel moves or waits behind them. -/
theorem endStepPadsAndWritesTheSentinel : Obligations.EndStepPadsAndWritesTheSentinel := by
  intro s rest hrest hready hinp
  obtain ⟨hrst, hrun, houtq⟩ := encInReady_iff.mp hready
  obtain ⟨slots, lits, hfilled, hs, _⟩ := encRest_iff.mp hrest
  obtain ⟨body, hpads, hlen, hnone⟩ := hfilled.padsTo hs
  have hpad : encPad 4 (withInp rest s.enc) = withInp rest (encPad 4 s.enc) := encPad_withInp 4 rest s.enc
  obtain ⟨haccn, hlitn, hcoll, _⟩ := encEnd_registers (withInp rest s.enc)
  rw [hpad] at haccn hlitn hcoll
  refine ⟨_, encTurn_takes (encLegal_of_encRest hrest) hready hinp, rfl, rfl,
    (encFrame_encTake .endTok (withInp rest s.enc)).inp_eq, haccn.trans (hpads.filled.accn_eq_zero_iff.mpr rfl),
    hlitn.trans (BitVec.eq_of_toNat_eq hpads.filled.litn_eq), ?_, hcoll, ?_⟩
  · refine ⟨body, ?_, hlen, fun h => hnone (hfilled.accn_eq_zero_iff.mp h)⟩
    rw [← hpads.written]
    exact (encWritten_encEnd (withInp rest s.enc)).trans (by rw [hpad]; rfl)
  · rcases encEnd_done_or_closing (e := withInp rest s.enc) hrun houtq with
      ⟨hr, hdone, hempty⟩ | ⟨hr, hwait, hclosing, _⟩
    · refine ⟨fun _ => ⟨(phase_bit_iff _).mpr hdone, hempty⟩, fun hnot => absurd (hnot.symm.trans hr) (by decide)⟩
    · refine ⟨fun hyes => absurd (hyes.symm.trans hr) (by decide), fun _ => ⟨?_, ?_, encMove_all_out _⟩⟩
      · exact congrArg Phase.bit hwait
      · rw [encMove_all]
        exact if_pos hclosing

/-! ### How much a step writes (R53) -/

/-- ENC's step writes a chunk at most for a byte, and the pad passes' bytes and the sentinel at `END`. -/
theorem encTurn_written {s t : State} (hrest : encRest s.enc = true) (hrst : s.enc.rst = false)
    (h : encTurn s = .next t) : ∃ bytes, encWritten t.enc = encWritten s.enc ++ bytes ∧ bytes.length ≤ 6 := by
  have hsame : ∃ bytes, encWritten s.enc = encWritten s.enc ++ bytes ∧ bytes.length ≤ 6 := ⟨[], by simp⟩
  rcases encTurn_cases h with ⟨hr, _⟩ | ⟨_, _, rfl⟩ | ⟨_, _, rfl⟩ | ⟨_, _, rfl⟩ | ⟨tok, rest, _, _, _, rfl⟩ |
    ⟨_, _, _, rfl⟩
  case inl => simp [hrst] at hr
  case inr.inl => exact ⟨[], by rw [onEnc_enc, encWritten_encMove, List.append_nil], by simp⟩
  case inr.inr.inr.inr.inl =>
    obtain ⟨slots, lits, hfilled, hs, _⟩ := encRest_iff.mp hrest
    have hfilled' : EncFilled slots lits (withInp rest s.enc) := hfilled.congr rfl rfl rfl rfl
    have hl := hfilled.counts.le
    cases tok with
    | byte b =>
      obtain ⟨_, _, out, hpacks, _, hwritten, _⟩ := hfilled'.pass b hs
      have hout := hpacks.out_length_le (by omega) (encField_size b _).2
      exact ⟨out, hwritten, by omega⟩
    | endTok =>
      obtain ⟨body, hpads, hlen, _⟩ := hfilled'.padsTo hs
      refine ⟨body ++ [Config.sentinel], ?_, by simp; omega⟩
      refine (encWritten_encEnd (withInp rest s.enc)).trans ?_
      rw [hpads.written, List.append_assoc]
      rfl
  all_goals exact hsame

theorem decEmit_written (v : Byte) (d : DecState) :
    ∃ bytes, decWritten (decEmit v d) = decWritten d ++ bytes ∧ bytes.length ≤ 1 := by
  cases hp : d.phase with
  | run => exact ⟨[v], (decEmit_writes v hp).1, by simp⟩
  | done => exact ⟨[], by rw [decEmit_done v hp, List.append_nil], by simp⟩

theorem decStop_written (why : DecStatus) (d : DecState) : decWritten (decStop why d) = decWritten d := by
  obtain ⟨_, _, _, _, hout, houtq, _⟩ := decStop_frame why d
  rw [decWritten, hout, houtq, decWritten]

/-- DEC's step writes the byte of its field at most. -/
theorem decTurn_written {s t : State} (hrst : s.dec.rst = false) (h : decTurn s = .next t) :
    ∃ bytes, decWritten t.dec = decWritten s.dec ++ bytes ∧ bytes.length ≤ 1 := by
  rcases decTurn_cases h with ⟨hr, _⟩ | ⟨_, _, rfl⟩ | ⟨_, _, rfl⟩ | ⟨_, _, rfl⟩ | ⟨_, _, _, _, hanswer⟩
  case inl => simp [hrst] at hr
  case inr.inl => exact ⟨[], by rw [onDec_dec, decWritten_decMove, List.append_nil], by simp⟩
  case inr.inr.inr.inr =>
    rcases decRun_cases hanswer with
      ⟨_, after, _, _, rfl, ⟨v, rfl⟩ | ⟨why, _, rfl⟩⟩ | ⟨why, after, _, rfl⟩ | ⟨_, _, rfl⟩
    · exact decEmit_written v (decMoveTo after s.dec)
    · exact ⟨[], by rw [onDec_dec, decStop_written, List.append_nil]; rfl, by simp⟩
    · exact ⟨[], by rw [onDec_dec, decStop_written, List.append_nil]; rfl, by simp⟩
    · exact ⟨[], (List.append_nil _).symm, by simp⟩
  all_goals exact ⟨[], by simp⟩

/-- Settles O31: ENC's step by the token it takes, DEC's by the answer it runs. -/
theorem bytesWrittenPerStep : Obligations.BytesWrittenPerStep :=
  ⟨fun _ _ hrest hrst h => encTurn_written hrest hrst h, fun _ _ hrst h => decTurn_written hrst h⟩

end Sys2Proof.Proofs
end

section
/-! The at-rest invariant (10_state.md sections 2, 3 and 5): every step of the machine keeps it, and from it every step
completes. -/

namespace Sys2Proof.Proofs

open Sys2Proof.Machine Sys2Proof.Safety

/-! ### ENC -/

theorem encRest_encReset (e : EncState) : encRest (encReset e) = true :=
  have hreset : encRest EncState.reset = true := by decide
  hreset

/-- Moves to the host take ENC from its end of input to `DONE` and change nothing else of the invariant (R20). -/
theorem encRest_encMove {e : EncState} (n : Nat) (h : encRest e = true) : encRest (encMove n e) = true := by
  obtain ⟨slots, lits, hfilled, hs, hhistory, hphase⟩ := encRest_iff.mp h
  refine encRest_iff.mpr ⟨slots, lits, hfilled.congr rfl rfl rfl rfl, hs, hhistory, ?_⟩
  rcases hphase with ⟨hrun, hopen⟩ | ⟨hslots, hrun, hclosing, _⟩ | ⟨hslots, hdone, hopen, hempty⟩
  · exact .inl (by simp [hrun, hopen])
  · by_cases hlast : e.outq.drop n = []
    · exact .inr (.inr ⟨hslots, by simp [hlast, hclosing]⟩)
    · exact .inr (.inl ⟨hslots, by simp [hlast, hclosing, hrun]⟩)
  · exact .inr (.inr ⟨hslots, by simp [hdone, hopen, hempty]⟩)

theorem historyAtRest_encPad {e : EncState} (fuel : Nat) (h : HistoryAtRest [] e) : HistoryAtRest [] (encPad fuel e) := by
  induction fuel generalizing e with
  | zero => exact h
  | succ fuel ih =>
    rw [encPad]
    split
    · exact h
    · exact ih (historyAtRest_encPass _ _ _)

/-- The end of input leaves nothing pending, in `DONE` or with bytes waiting (R98 to R100). -/
theorem encRest_encEnd {e : EncState} (h : encRest e = true) (hrun : e.phase = .run) (hopen : e.closing = false)
    (houtq : e.outq = []) : encRest (encEnd e) = true := by
  obtain ⟨slots, lits, hfilled, hs, ⟨horder, _⟩, _⟩ := encRest_iff.mp h
  obtain ⟨body, hpads, _⟩ := hfilled.padsTo hs
  obtain ⟨haccn, hlitn, _, hacc, hlit, hp0, hp1⟩ := encEnd_registers e
  obtain ⟨hphase, hclosing, _⟩ := encPad_frame 4 e
  obtain ⟨horder', _⟩ := historyAtRest_encPad 4 ⟨horder, .inr rfl⟩
  refine encRest_iff.mpr ⟨[], [], hpads.filled.congr hacc haccn hlit hlitn, by decide, ⟨?_, .inr rfl⟩, ?_⟩
  · rwa [hp0, hp1]
  · rcases encEnd_cases houtq with ⟨_, hempty, hend⟩ | ⟨_, hend⟩ <;> rw [hend]
    · exact .inr (.inr ⟨rfl, rfl, hclosing.trans hopen, hempty⟩)
    · exact .inr (.inl ⟨rfl, hphase.trans hrun, rfl, by simp⟩)

theorem encTurn_keeps_rest {s t : State} (hrest : encRest s.enc = true) (h : encTurn s = .next t) :
    encRest t.enc = true := by
  rcases encTurn_cases h with ⟨_, rfl⟩ | ⟨_, _, rfl⟩ | ⟨_, _, rfl⟩ | ⟨_, _, rfl⟩ | ⟨tok, rest, hready, _, _, rfl⟩ |
    ⟨_, _, _, rfl⟩
  case inl => exact encRest_encReset s.enc
  case inr.inl => exact encRest_encMove _ hrest
  case inr.inr.inr.inr.inl =>
    obtain ⟨_, _, _, _, _, hphase⟩ := encRest_iff.mp hrest
    obtain ⟨hrun, hopen⟩ := hphase.not_closing hready
    obtain ⟨_, _, houtq⟩ := encInReady_iff.mp hready
    have hrest' : encRest (withInp rest s.enc) = true := hrest
    cases tok with
    | byte b => exact encRest_encPass b hrest' hrun hopen
    | endTok => exact encRest_encEnd hrest' hrun hopen houtq
  all_goals exact hrest

/-! ### DEC's cursor -/

/-- Where DEC can stand after a field or a stop: at most three slots are left, of a control byte that is no sentinel (R112). -/
def FieldEnd (c : Cursor) : Prop :=
  (c.rem = 0#4 ∨ c.rem = 2#4 ∨ c.rem = 4#4 ∨ c.rem = 6#4) ∧ (c.rem = 0#4 ∨ c.ctrl ≠ Config.sentinel)

/-- Where DEC can stand between steps: there, or at slot 0 waiting for its literal (R22; log 5). -/
def CursorAtRest (c : Cursor) : Prop :=
  FieldEnd c ∨ (c.rem = 8#4 ∧ slotAt c.ctrl c.rem = 0b00#2 ∧ c.ctrl ≠ Config.sentinel)

/-- What an answer read at `c` may leave: the end of a field or of the stream, or DEC waiting at its count or at slot 0. -/
def AnswerAtRest (c : Cursor) : Decoded → Prop
  | .instr _ after => FieldEnd after
  | .ends _ after => FieldEnd after
  | .starved waiting => CursorAtRest waiting ∧ (waiting.rem = c.rem ∨ waiting.rem = 8#4)

theorem FieldAnswer.atRest {c : Cursor} {a : Decoded} (h : FieldAnswer c a)
    (hrem : c.rem = 2#4 ∨ c.rem = 4#4 ∨ c.rem = 6#4 ∨ c.rem = 8#4) (hctrl : c.ctrl ≠ Config.sentinel) :
    AnswerAtRest c a := by
  have hwaits (hslot : c.rem = 8#4 → slotAt c.ctrl c.rem = 0b00#2) : CursorAtRest c := by
    rcases hrem with hr | hr | hr | hr
    case inr.inr.inr => exact .inr ⟨hr, hslot hr, hctrl⟩
    all_goals exact .inl ⟨by simp [hr], .inr hctrl⟩
  have hdrop : c.rem - 2#4 = 0#4 ∨ c.rem - 2#4 = 2#4 ∨ c.rem - 2#4 = 4#4 ∨ c.rem - 2#4 = 6#4 := by
    rcases hrem with hr | hr | hr | hr <;> simp [hr]
  cases h with
  | litWaits hslot _ => exact ⟨hwaits fun _ => hslot, .inl rfl⟩
  | selWaits _ hlast _ => exact ⟨hwaits fun hr => absurd (hlast.symm.trans hr) (by decide), .inl rfl⟩
  | litEnds | lit | rep2 | rep1 => exact ⟨hdrop, .inr hctrl⟩
  | selEnds | selSentinel => exact ⟨.inl rfl, .inl rfl⟩
  | modpNext _ _ _ hb => exact ⟨.inr (.inr (.inr rfl)), .inr hb⟩
  | modpHere _ hmore =>
    refine ⟨?_, .inr hctrl⟩
    rcases hrem with hr | hr | hr | hr
    · exact absurd hr hmore
    all_goals simp [hr]

/-- Behind a fetch, DEC waits at slot 0 only. -/
theorem AnswerAtRest.of_loaded {c c' : Cursor} {a : Decoded} (h : AnswerAtRest c' a) (hr : c'.rem = 8#4) :
    AnswerAtRest c a := by
  cases a with
  | instr | ends => exact h
  | starved w =>
    obtain ⟨hw, hwhere⟩ := h
    rw [hr, or_self] at hwhere
    exact ⟨hw, .inr hwhere⟩

/-- Every answer from rest. -/
theorem Answer.atRest {c : Cursor} {a : Decoded} (h : Answer c a) (hc : CursorAtRest c) : AnswerAtRest c a := by
  cases h with
  | fetchWaits => exact ⟨hc, .inl rfl⟩
  | fetchEnds | fetchSentinel => exact ⟨.inl rfl, .inl rfl⟩
  | loaded _ _ hb hfield => exact (hfield.atRest (by simp) hb).of_loaded rfl
  | inside hrem hfield =>
    rcases hc with ⟨hcount, hctrl⟩ | ⟨hr, _, hctrl⟩
    · exact hfield.atRest (by tauto) (by tauto)
    · exact hfield.atRest (by tauto) hctrl

/-! ### DEC -/

theorem ofSlot_eq_literal_iff (s : Slot) : OpCode.ofSlot s = .literal ↔ s = 0b00#2 := by
  revert s
  decide

theorem decLegal_iff {d : DecState} :
    decLegal d = true ↔ d.rem = 0#4 ∨ d.rem = 2#4 ∨ d.rem = 4#4 ∨ d.rem = 6#4 ∨ d.rem = 8#4 := by
  simp [decLegal, or_assoc]

/-- The clauses of `decRest` about the cursor. -/
theorem cursorAtRest_iff {d : DecState} :
    CursorAtRest (decCursor d) ↔ decLegal d = true ∧ (d.rem = 8#4 → slotAt d.ctrl d.rem = 0b00#2)
      ∧ (d.rem = 0#4 ∨ d.ctrl ≠ Config.sentinel) := by
  rw [decLegal_iff]
  constructor
  · rintro (⟨hcount, hctrl⟩ | ⟨hr, hslot, hctrl⟩)
    · refine ⟨by simp only [decCursor_rem] at hcount; tauto, fun hr => ?_, hctrl⟩
      rw [decCursor_rem, hr] at hcount
      simp at hcount
    · exact ⟨.inr (.inr (.inr (.inr hr))), fun _ => hslot, .inr hctrl⟩
  · rintro ⟨hr | hr | hr | hr | hr, hslot, hctrl⟩
    case inr.inr.inr.inr => exact .inr ⟨hr, hslot hr, by simpa [hr] using hctrl⟩
    all_goals exact .inl ⟨by simp [hr], hctrl⟩

theorem decRest_iff {d : DecState} :
    decRest d = true ↔ CursorAtRest (decCursor d) ∧ (d.rem = 8#4 → d.phase = .run)
      ∧ (d.p0.isDef = true → d.p1.isDef = true)
      ∧ (d.p1.isDef = true ∨ d.phase = .done ∨ d.rem = 0#4 ∨ d.rem = 8#4)
      ∧ (d.status = .none ↔ d.phase = .run) ∧ d.outq.length ≤ 1 ∧ (d.phase = .run ∨ d.outq = []) := by
  rw [cursorAtRest_iff, ← ofSlot_eq_literal_iff]
  simp only [decRest, Bool.and_eq_true, decide_eq_true_eq, Bool.or_eq_true, Bool.not_eq_true', bne_iff_ne, beq_iff_eq,
    List.isEmpty_iff, ne_eq, and_assoc]
  by_cases hr : d.rem = 8#4 <;> cases d.p0.isDef <;> cases d.phase <;> simp [hr]

theorem decRest_decReset (d : DecState) : decRest (decReset d) = true :=
  have hreset : decRest DecState.reset = true := by decide
  hreset

theorem decRest_decMove {d : DecState} (n : Nat) (h : decRest d = true) : decRest (decMove n d) = true := by
  obtain ⟨hcursor, hwaits, horder, hhistory, hstatus, hone, hempty⟩ := decRest_iff.mp h
  refine decRest_iff.mpr ⟨hcursor, hwaits, horder, hhistory, hstatus, ?_, ?_⟩
  · rw [decMove_outq, List.length_drop]
    omega
  · rcases hempty with hrun | hq
    · exact .inl hrun
    · exact .inr (by rw [decMove_outq, hq, List.drop_nil])

theorem FieldEnd.rem_ne_eight {c : Cursor} (h : FieldEnd c) : c.rem ≠ 8#4 := by
  obtain ⟨hcount, _⟩ := h
  intro hr
  simp [hr] at hcount

section
variable {d : DecState} {c : Cursor} (hrest : decRest d = true) (hrun : d.phase = .run) (houtq : d.outq = [])
include hrest hrun houtq

/-- After a field and its output byte DEC is at rest: the history is defined then. -/
theorem decRest_decEmit (hc : FieldEnd c) (v : Byte) : decRest (decEmit v (decMoveTo c d)) = true := by
  obtain ⟨_, _, _, _, hstatus, _⟩ := decRest_iff.mp hrest
  obtain ⟨hrem, hinp, _⟩ := decEmit_frame v (decMoveTo c d)
  obtain ⟨hphase, hstat⟩ := decEmit_phase_status v (decMoveTo c d)
  obtain ⟨hwritten, _, hp1⟩ := decEmit_writes v (d := decMoveTo c d) hrun
  have hcursor : decCursor (decEmit v (decMoveTo c d)) = c := by rw [decCursor, decEmit_ctrl, hrem, hinp]; rfl
  have hrun' : (decEmit v (decMoveTo c d)).phase = .run := hphase.trans hrun
  have hlen : (decEmit v (decMoveTo c d)).outq.length ≤ 1 := by
    rw [decEmit_run v (d := decMoveTo c d) hrun, decHistory_outq]
    rcases decOutWrite_cases v (decMoveTo c d) with ⟨_, _, hw⟩ | ⟨_, hw⟩ <;> simp [hw, houtq]
  refine decRest_iff.mpr ⟨by rw [hcursor]; exact .inl hc, fun _ => hrun', ?_, ?_, ?_, hlen, .inl hrun'⟩
  · simp [hp1, OptByte.ofByte]
  · simp [hp1, OptByte.ofByte]
  · rw [hstat, hrun']
    simpa [hrun] using hstatus

/-- After a stop DEC is at rest, in `DONE` with its status. -/
theorem decRest_decStop (hc : FieldEnd c) {why : DecStatus} (hwhy : why ≠ .none) :
    decRest (decStop why (decMoveTo c d)) = true := by
  obtain ⟨_, _, horder, _⟩ := decRest_iff.mp hrest
  rw [decStop_run why (d := decMoveTo c d) hrun]
  exact decRest_iff.mpr ⟨.inl hc, fun hr => absurd hr hc.rem_ne_eight, horder, .inr (.inl rfl),
    by simp [hwhy], by simp [houtq], .inr houtq⟩

omit houtq in
/-- A DEC that waits is at rest, at its count or at slot 0. -/
theorem decRest_decMoveTo (hc : CursorAtRest c) (hwhere : c.rem = d.rem ∨ c.rem = 8#4) :
    decRest (decMoveTo c d) = true := by
  obtain ⟨_, _, horder, hhistory, hstatus, hone, hempty⟩ := decRest_iff.mp hrest
  refine decRest_iff.mpr ⟨hc, fun _ => hrun, horder, ?_, hstatus, hone, hempty⟩
  rcases hwhere with hr | hr
  · rwa [decMoveTo_rem, hr]
  · exact .inr (.inr (.inr hr))

end

theorem decTurn_keeps_rest {s t : State} (hrest : decRest s.dec = true) (h : decTurn s = .next t) :
    decRest t.dec = true := by
  rcases decTurn_cases h with ⟨_, rfl⟩ | ⟨_, _, rfl⟩ | ⟨_, _, rfl⟩ | ⟨_, _, rfl⟩ |
    ⟨hrst, hrun, hvalid, _, hanswer⟩
  case inl => exact decRest_decReset s.dec
  case inr.inl => exact decRest_decMove _ hrest
  case inr.inr.inr.inr =>
    obtain ⟨hcursor, _⟩ := decRest_iff.mp hrest
    have houtq : s.dec.outq = [] := by simpa [decOutValid, hrst] using hvalid
    have hafter : AnswerAtRest (decCursor s.dec) (decode (decCursor s.dec)) := (decode_answer _).atRest hcursor
    rcases decRun_cases hanswer with
      ⟨i, after, _, ha, rfl, ⟨v, rfl⟩ | ⟨why, hwhy, rfl⟩⟩ | ⟨why, after, ha, rfl⟩ | ⟨w, ha, rfl⟩ <;>
      rw [ha] at hafter
    · exact decRest_decEmit hrest hrun houtq hafter v
    · exact decRest_decStop hrest hrun houtq hafter hwhy
    · exact decRest_decStop hrest hrun houtq hafter (endStatus_ne_none why)
    · obtain ⟨hw, hwhere⟩ := hafter
      exact decRest_decMoveTo hrest hrun hw hwhere
  all_goals exact hrest

/-! ### The machine -/

theorem atRest_iff {s : State} : atRest s = true ↔ encRest s.enc = true ∧ decRest s.dec = true := by
  rw [atRest, Bool.and_eq_true]

/-- The host's actions write no register of a block but by moving its bytes or letting it step. -/
theorem hostAct_keeps_rest {a : HostAction} {s t : State} (hrest : atRest s = true) (h : hostAct a s = .next t) :
    atRest t = true := by
  obtain ⟨henc, hdec⟩ := atRest_iff.mp hrest
  cases a with
  | letEnc =>
    obtain ⟨hsame, _⟩ := encTurn_dec_host h
    exact atRest_iff.mpr ⟨encTurn_keeps_rest henc h, by rwa [hsame]⟩
  | letDec => exact atRest_iff.mpr ⟨by rwa [decTurn_enc h], decTurn_keeps_rest hdec h⟩
  | takeEnc =>
    obtain rfl := Host.Outcome.next.inj h
    refine atRest_iff.mpr ⟨?_, hdec⟩
    rw [onEnc_enc]
    split
    · exact encRest_encMove 1 henc
    · exact henc
  | takeDec =>
    obtain rfl := Host.Outcome.next.inj h
    refine atRest_iff.mpr ⟨henc, ?_⟩
    rw [onDec_dec]
    split
    · exact decRest_decMove 1 hdec
    · exact hdec
  | dropEnc =>
    obtain rfl := Host.Outcome.next.inj h
    refine atRest_iff.mpr ⟨?_, hdec⟩
    rw [onEnc_enc]
    split <;> exact henc
  | dropDec =>
    obtain rfl := Host.Outcome.next.inj h
    refine atRest_iff.mpr ⟨henc, ?_⟩
    rw [onDec_dec]
    split <;> exact hdec
  | offerEnc _ | offerDec _ | driveEncRst _ | driveDecRst _ | driveEncReady _ | driveDecReady _ =>
    obtain rfl := Host.Outcome.next.inj h
    exact hrest

/-- Settles O38: each block's own step keeps it at rest, and so does every action of the host. -/
theorem everyStepKeepsRest : Obligations.EveryStepKeepsRest := by
  intro s t hrest h
  cases hh : s.host with
  | nil =>
    obtain ⟨henc, hdec⟩ := atRest_iff.mp hrest
    obtain ⟨m, hm, ht⟩ := step_of_host_nil hh h
    obtain ⟨hsame, _⟩ := encTurn_dec_host hm
    refine atRest_iff.mpr ⟨?_, decTurn_keeps_rest (by rwa [hsame]) ht⟩
    rw [decTurn_enc ht]
    exact encTurn_keeps_rest henc hm
  | cons a rest =>
    rw [step_of_host_cons hh] at h
    exact hostAct_keeps_rest (s := { s with host := rest }) hrest h

/-- Settles O37: by evaluation of the two resets. -/
theorem resetIsAtRest : Obligations.ResetIsAtRest := by
  rw [Obligations.ResetIsAtRest]
  decide

/-! ### Steps complete -/

/-- ENC's step refuses nothing but counts that are not at rest (I12). -/
theorem encTurn_completes {s : State} (hrest : encRest s.enc = true) : ∃ t, encTurn s = .next t := by
  have hlegal := encLegal_of_encRest hrest
  cases hinp : s.enc.inp with
  | nil =>
    simp only [encTurn, hinp]
    split_ifs <;> exact ⟨_, rfl⟩
  | cons tok rest =>
    simp only [encTurn, hinp, hlegal, if_true]
    split_ifs <;> exact ⟨_, rfl⟩

/-- DEC's step runs every answer of the decoder. -/
theorem decTurn_completes {s : State} (hrest : decRest s.dec = true) : ∃ t, decTurn s = .next t := by
  obtain ⟨hcursor, _⟩ := decRest_iff.mp hrest
  obtain ⟨hlegal, _⟩ := cursorAtRest_iff.mp hcursor
  obtain ⟨f, hf⟩ := decRun_uniform (decode (decCursor s.dec))
  cases hphase : s.dec.phase with
  | run =>
    simp only [decTurn, hphase, hlegal, hf, if_true]
    split_ifs <;> exact ⟨_, rfl⟩
  | done =>
    simp only [decTurn, hphase]
    split_ifs <;> exact ⟨_, rfl⟩

/-- Settles O39: the two blocks' steps complete, and every other action of the host does so by itself. -/
theorem everyStepFromRestCompletes : Obligations.EveryStepFromRestCompletes := by
  intro s hrest
  obtain ⟨henc, hdec⟩ := atRest_iff.mp hrest
  rw [Completes, step, coreStep]
  cases s.host with
  | nil =>
    obtain ⟨m, hm⟩ := encTurn_completes henc
    obtain ⟨hsame, _⟩ := encTurn_dec_host hm
    obtain ⟨t, ht⟩ := decTurn_completes (s := m) (by rwa [hsame])
    exact ⟨t, by simp only [bothTurns, hm, ht]⟩
  | cons a rest =>
    cases a with
    | letEnc => exact encTurn_completes (s := { s with host := rest }) henc
    | letDec => exact decTurn_completes (s := { s with host := rest }) hdec
    | offerEnc _ | offerDec _ | driveEncRst _ | driveDecRst _ | driveEncReady _ | driveDecReady _
    | takeEnc | takeDec | dropEnc | dropDec => exact ⟨_, rfl⟩

end Sys2Proof.Proofs
end

section
/-! The assembler (R67): when it answers, what SENT adds at the end, and the stream it answers as DEC will stand in it. -/

namespace Sys2Proof.Proofs

open Sys2Proof.Machine

/-! ### The assembler, field by field -/

theorem slotsOf_length_le (i : Instr) : 1 ≤ (slotsOf i).length ∧ (slotsOf i).length ≤ 4 := by
  cases i <;> simp [slotsOf]

theorem exists_packs (slots : List Slot) (lits : List Byte) (i : Instr) :
    ∃ slots' lits' out, Packs slots lits i slots' lits' out := by
  by_cases hshort : (slots ++ slotsOf i).length < 4
  · exact ⟨_, _, _, .short hshort⟩
  · obtain ⟨s0, s1, s2, s3, spare, hfull⟩ := exists_four_of_le_length (Nat.le_of_not_lt hshort)
    exact ⟨_, _, _, .full hfull⟩

/-- The assembler packs one field as a pass of ENC does, and goes on with what waits then. -/
theorem assembleFrom_cons {slots slots' : List Slot} {lits lits' out : List Byte} {i : Instr}
    (h : Packs slots lits i slots' lits' out) (hsent : i = .sent → slots = []) (l : List Instr) :
    assembleFrom slots lits (i :: l) = (assembleFrom slots' lits' l).map (out ++ ·) := by
  have hfits : ¬ (i = .sent && !slots.isEmpty) = true := by
    simpa using hsent
  rw [assembleFrom, if_neg hfits]
  cases h with
  | short h =>
    split
    next hfull =>
      rw [hfull] at h
      simp only [List.length_cons] at h
      omega
    next => simp
  | full h =>
    rw [h]
    rfl

theorem assembleFrom_sent_inside {slots : List Slot} (h : slots ≠ []) (lits : List Byte) (l : List Instr) :
    assembleFrom slots lits (.sent :: l) = none := by
  rw [assembleFrom, if_pos (by simp [h])]

/-- The assembler answers exactly if the slots come out even and every field fits where it stands. -/
theorem assembleFrom_isSome (l : List Instr) {slots : List Slot} (lits : List Byte) (hs : slots.length < 4) :
    (assembleFrom slots lits l).isSome
      = ((slots.length + (l.map Instr.slotCount).sum) % 4 == 0 && Listing.fits slots.length l) := by
  induction l generalizing slots lits with
  | nil =>
    rw [assembleFrom]
    cases slots with
    | nil => rfl
    | cons s slots =>
      have hne : (s :: slots).length % 4 ≠ 0 := by
        rw [Nat.mod_eq_of_lt hs]
        simp
      simpa [Listing.fits] using hne
  | cons i l ih =>
    by_cases hsent : i = .sent → slots = []
    · obtain ⟨slots', lits', out, hpacks⟩ := exists_packs slots lits i
      have hlen := hpacks.length_eq hs (slotsOf_length_le i).2
      rw [slotCount_eq_length] at hlen
      have hfits : i.fitsAt slots.length = true := by
        cases i with
        | sent => simp [Instr.fitsAt, hsent rfl]
        | lit _ | modp _ | rep2 | rep1 => exact decide_eq_true hs
      have hsum : ((slots.length + i.slotCount) % 4 + (l.map Instr.slotCount).sum) % 4
          = (slots.length + ((i :: l).map Instr.slotCount).sum) % 4 := by
        rw [List.map_cons, List.sum_cons]
        omega
      rw [assembleFrom_cons hpacks hsent, Option.isSome_map, ih lits' (by omega), hlen, hsum, Listing.fits, hfits,
        Bool.true_and]
      rfl
    · obtain ⟨rfl, hne⟩ := Classical.not_imp.mp hsent
      have hlen : slots.length ≠ 0 := mt List.length_eq_zero_iff.mp hne
      simp [assembleFrom_sent_inside hne, Listing.fits, Instr.fitsAt, hlen]

/-- Settles O34: from nothing waiting. -/
theorem assemblesExactlyWhenItFits : Obligations.AssemblesExactlyWhenItFits := by
  intro l
  rw [assemble, assembleFrom_isSome l [] (by decide), List.length_nil, Nat.zero_add]
  rfl

/-! ### SENT at the end -/

/-- Behind fields that fill their control bytes SENT is one byte more (R59). -/
theorem assembleFrom_append_sent {l : List Instr} (hl : ∀ i ∈ l, i ≠ .sent) {slots : List Slot} {lits : List Byte}
    (hlits : slots = [] → lits = []) :
    assembleFrom slots lits (l ++ [.sent]) = (assembleFrom slots lits l).map (· ++ [Config.sentinel]) := by
  induction l generalizing slots lits with
  | nil =>
    by_cases hs : slots = []
    · obtain rfl := hlits hs
      subst hs
      rfl
    · simp [assembleFrom_sent_inside hs, assembleFrom, hs]
  | cons i l ih =>
    have hi : i ≠ .sent := hl i List.mem_cons_self
    obtain ⟨slots', lits', out, hpacks⟩ := exists_packs slots lits i
    have hlits' : slots' = [] → lits' = [] := by
      intro hempty
      have hpos := (slotsOf_length_le i).1
      cases hpacks with
      | short h =>
        have hlen := congrArg List.length hempty
        rw [List.length_append, List.length_nil] at hlen
        omega
      | full h => rfl
    rw [List.cons_append, assembleFrom_cons hpacks (absurd · hi), assembleFrom_cons hpacks (absurd · hi),
      ih (fun j hj => hl j (List.mem_cons_of_mem i hj)) hlits', Option.map_map, Option.map_map]
    congr 1
    funext bytes
    exact (List.append_assoc out bytes _).symm

theorem assemble_append_sent {l : List Instr} (hl : ∀ i ∈ l, i ≠ .sent) :
    assemble (l ++ [.sent]) = (assemble l).map (· ++ [Config.sentinel]) :=
  assembleFrom_append_sent hl fun _ => rfl

/-! ### The stream as DEC stands in it -/

/-- With the slots `avail` left of the control byte, the bytes to come hold the fields `l` (R56, R57, R61): a field whose slots are
left brings its literals; a MODP in the last slot has its selector in the next control byte; and at a slot boundary a control
byte comes first. -/
inductive Streams : List Slot → List Instr → List Byte → Prop where
  | nil : Streams [] [] []
  | fetch {s0 s1 s2 s3 : Slot} {l : List Instr} {bytes : List Byte} (h : Streams [s0, s1, s2, s3] l bytes) :
      Streams [] l (packByte s0 s1 s2 s3 :: bytes)
  | field {i : Instr} {avail : List Slot} {l : List Instr} {bytes : List Byte} (hi : i ≠ .sent)
      (h : Streams avail l bytes) : Streams (slotsOf i ++ avail) (i :: l) (literalsOf i ++ bytes)
  | selector {sel s1 s2 s3 : Slot} {l : List Instr} {bytes : List Byte} (h : Streams [s1, s2, s3] l bytes) :
      Streams [OpCode.modifyPrev.toSlot] (.modp sel :: l) (packByte sel s1 s2 s3 :: bytes)

/-- What the assembler still answers with `slots` and `lits` waiting: the control byte that `slots` begin, `lits`, and a stream that
goes on behind `slots`. -/
def StreamsBehind (slots : List Slot) (lits : List Byte) (l : List Instr) (bytes : List Byte) : Prop :=
  ∃ s0 s1 s2 s3 avail more, slots ++ avail = [s0, s1, s2, s3] ∧ bytes = packByte s0 s1 s2 s3 :: (lits ++ more)
    ∧ Streams avail l more

theorem StreamsBehind.streams {l : List Instr} {bytes : List Byte} (h : StreamsBehind [] [] l bytes) :
    Streams [] l bytes := by
  obtain ⟨s0, s1, s2, s3, avail, more, rfl, rfl, hstream⟩ := h
  exact .fetch hstream

/-- The field behind which the assembler writes a control byte: all its slots are in it, or it is a MODP with its selector left
over. -/
theorem streamsBehind_of_full {slots : List Slot} {lits bytes : List Byte} {i : Instr} {l : List Instr}
    {s0 s1 s2 s3 : Slot} {spare : List Slot} (hi : i ≠ .sent) (hs : slots.length < 4)
    (hfull : slots ++ slotsOf i = s0 :: s1 :: s2 :: s3 :: spare)
    (hnil : spare = [] → Streams [] l bytes) (hspare : spare ≠ [] → StreamsBehind spare [] l bytes) :
    StreamsBehind slots lits (i :: l) (packByte s0 s1 s2 s3 :: (lits ++ literalsOf i) ++ bytes) := by
  by_cases hempty : spare = []
  · subst hempty
    exact ⟨s0, s1, s2, s3, slotsOf i, literalsOf i ++ bytes, hfull, by simp,
      by simpa using Streams.field hi (hnil rfl)⟩
  · obtain ⟨t0, t1, t2, t3, avail, more, hslots, rfl, hstream⟩ := hspare hempty
    have hpos := List.length_pos_iff.mpr hempty
    have hlen := congrArg List.length hfull
    simp only [List.length_append, List.length_cons] at hlen
    cases i with
    | sent => exact absurd rfl hi
    | lit _ | rep2 | rep1 =>
      simp only [slotsOf, List.length_singleton] at hlen
      omega
    | modp sel =>
      simp only [slotsOf, List.length_cons, List.length_nil] at hlen
      obtain ⟨a, b, c, rfl⟩ := List.length_eq_three.mp (show slots.length = 3 by omega)
      simp only [slotsOf, List.cons_append, List.nil_append, List.cons.injEq] at hfull
      obtain ⟨rfl, rfl, rfl, rfl, rfl⟩ := hfull
      simp only [List.cons_append, List.nil_append, List.cons.injEq] at hslots
      obtain ⟨rfl, rfl⟩ := hslots
      exact ⟨a, b, c, _, _, _, rfl, by simp [literalsOf], .selector hstream⟩

/-- What the assembler answers, by induction on the fields still to come. -/
theorem streamsBehind_of_assembleFrom {l : List Instr} (hl : ∀ i ∈ l, i ≠ .sent) {slots : List Slot}
    {lits bytes : List Byte} (hs : slots.length < 4) (hsome : slots ≠ [] ∨ l ≠ [])
    (h : assembleFrom slots lits l = some bytes) : StreamsBehind slots lits l bytes := by
  induction l generalizing slots lits bytes with
  | nil =>
    have hne : slots ≠ [] := by simpa using hsome
    simp [assembleFrom, hne] at h
  | cons i l ih =>
    have hi : i ≠ .sent := hl i List.mem_cons_self
    have hl' : ∀ j ∈ l, j ≠ .sent := fun j hj => hl j (List.mem_cons_of_mem i hj)
    obtain ⟨slots', lits', out, hpacks⟩ := exists_packs slots lits i
    have hlen := hpacks.length_eq hs (slotsOf_length_le i).2
    rw [assembleFrom_cons hpacks (absurd · hi), Option.map_eq_some_iff] at h
    obtain ⟨rest, hrest, rfl⟩ := h
    cases hpacks with
    | short hshort =>
      have hne : slots ++ slotsOf i ≠ [] := by
        have := (slotsOf_length_le i).1
        exact List.ne_nil_of_length_pos (by rw [List.length_append]; omega)
      obtain ⟨s0, s1, s2, s3, avail, more, hslots, rfl, hstream⟩ := ih hl' hshort (.inl hne) hrest
      exact ⟨s0, s1, s2, s3, slotsOf i ++ avail, literalsOf i ++ more, by rw [← hslots, List.append_assoc],
        by simp, .field hi hstream⟩
    | full hfull =>
      refine streamsBehind_of_full hi hs hfull (fun hempty => ?_) fun hne => ih hl' (by omega) (.inl hne) hrest
      subst hempty
      by_cases hnone : l = []
      · subst hnone
        obtain rfl : [] = rest := Option.some.inj hrest
        exact .nil
      · exact (ih hl' (by decide) (.inr hnone) hrest).streams

theorem streams_of_assemble {l : List Instr} (hl : ∀ i ∈ l, i ≠ .sent) {bytes : List Byte}
    (h : assemble l = some bytes) : Streams [] l bytes := by
  by_cases hnone : l = []
  · subst hnone
    obtain rfl : [] = bytes := Option.some.inj h
    exact .nil
  · exact (streamsBehind_of_assembleFrom hl (by decide) (.inr hnone) h).streams

/-- The slots left of the control byte are the next slots of the fields. -/
theorem Streams.exists_later {avail : List Slot} {l : List Instr} {bytes : List Byte} (h : Streams avail l bytes) :
    ∃ later, l.flatMap slotsOf = avail ++ later := by
  induction h with
  | nil => exact ⟨[], rfl⟩
  | fetch => exact ⟨_, rfl⟩
  | field _ _ ih =>
    obtain ⟨later, hlater⟩ := ih
    exact ⟨later, by rw [List.flatMap_cons, hlater, List.append_assoc]⟩
  | selector => exact ⟨_, rfl⟩

end Sys2Proof.Proofs
end

section
/-! DEC's parse of an assembled stream (R67, R111): it reads the fields back, up to the first collision (R123). -/

namespace Sys2Proof.Proofs

open Sys2Proof.Machine

/-! ### Reading fields one after the other -/

/-- From the first cursor the decoder reads the fields of the list, none of them SENT, and comes to the last cursor. -/
inductive Reads : Cursor → List Instr → Cursor → Prop where
  | nil (c : Cursor) : Reads c [] c
  | cons {c m c' : Cursor} {i : Instr} {l : List Instr} (hi : i ≠ .sent) (h : decode c = .instr i m)
      (hrest : Reads m l c') : Reads c (i :: l) c'

/-- Where the decoder reads the same, the fields are the same, if there are any. -/
theorem Reads.of_decode_eq {c c₁ c' : Cursor} {l : List Instr} (heq : decode c = decode c₁) (h : Reads c₁ l c') :
    Reads c l c' ∨ (l = [] ∧ c' = c₁) := by
  cases h with
  | nil => exact .inr ⟨rfl, rfl⟩
  | cons hi hd hrest => exact .inl (.cons hi (heq.trans hd) hrest)

/-! ### The slots left of a control byte (R24, R113) -/

/-- The slots of `ctrl` that `rem` bits are left for, in stream order. -/
def HoldsSlots (ctrl : Byte) : BitVec 4 → List Slot → Prop
  | rem, [] => rem = 0#4
  | rem, s :: avail => rem ≠ 0#4 ∧ slotAt ctrl rem = s ∧ HoldsSlots ctrl (rem - 2#4) avail

theorem holdsSlots_packByte (s0 s1 s2 s3 : Slot) :
    HoldsSlots (packByte s0 s1 s2 s3) 8#4 [s0, s1, s2, s3] := by
  obtain ⟨h8, h6, h4, h2⟩ := slotAt_pairs (packByte s0 s1 s2 s3)
  obtain ⟨e0, e1, e2, e3⟩ := extractLsb'_packByte s0 s1 s2 s3
  exact ⟨by decide, h8.trans e0, by decide, h6.trans e1, by decide, h4.trans e2, by decide, h2.trans e3, rfl⟩

/-- A field all of whose slots are left is read there, with its literals. -/
theorem decode_field {c : Cursor} {i : Instr} {avail : List Slot} {rest : List DecToken} (hi : i ≠ .sent)
    (hslots : HoldsSlots c.ctrl c.rem (slotsOf i ++ avail))
    (hinp : c.inp = (literalsOf i).map DecToken.byte ++ rest) :
    ∃ after, decode c = .instr i after ∧ HoldsSlots after.ctrl after.rem avail ∧ after.inp = rest := by
  cases i with
  | sent => exact absurd rfl hi
  | lit v =>
    obtain ⟨hrem, hslot, hrest⟩ := hslots
    exact ⟨_, (decode_literal hrem hslot).trans (readLiteral_byte c (c := c.dropSlot) hinp), hrest, rfl⟩
  | modp sel =>
    obtain ⟨hrem, hslot, hmore, rfl, hrest⟩ := hslots
    exact ⟨_, (decode_modifyPrev hrem hslot).trans (readSelector_here c (c := c.dropSlot) hmore), hrest, hinp⟩
  | rep2 =>
    obtain ⟨hrem, hslot, hrest⟩ := hslots
    exact ⟨_, decode_repeatSecondLast hrem hslot, hrest, hinp⟩
  | rep1 =>
    obtain ⟨hrem, hslot, hrest⟩ := hslots
    exact ⟨_, decode_repeatLast hrem hslot, hrest, hinp⟩

/-! ### The fields before a collision (R123) -/

section
variable {s0 s1 s2 s3 : Slot} (later : List Slot)

theorem slotsBeforeCollision_collided (h : packByte s0 s1 s2 s3 = Config.sentinel) :
    slotsBeforeCollision (s0 :: s1 :: s2 :: s3 :: later) = []
      ∧ slotsCollisionFree (s0 :: s1 :: s2 :: s3 :: later) = false := by
  simp [slotsBeforeCollision, slotsCollisionFree, h]

theorem slotsBeforeCollision_passed (h : packByte s0 s1 s2 s3 ≠ Config.sentinel) :
    (slotsBeforeCollision (s0 :: s1 :: s2 :: s3 :: later)).length = 4 + (slotsBeforeCollision later).length
      ∧ slotsCollisionFree (s0 :: s1 :: s2 :: s3 :: later) = slotsCollisionFree later := by
  simp [slotsBeforeCollision, slotsCollisionFree, h]
  omega

end

theorem slotCount_pos (i : Instr) : 1 ≤ i.slotCount := by
  cases i <;> simp [Instr.slotCount]

theorem fieldsWithin_zero (l : List Instr) : fieldsWithin 0 l = [] := by
  cases l with
  | nil => rfl
  | cons i l =>
    have := slotCount_pos i
    rw [fieldsWithin, if_neg (by omega)]

theorem fieldsWithin_add (i : Instr) (l : List Instr) (n : Nat) :
    fieldsWithin ((slotsOf i).length + n) (i :: l) = i :: fieldsWithin n l := by
  rw [slotCount_eq_length, fieldsWithin, if_pos (Nat.le_add_right _ _), Nat.add_sub_cancel_left]

/-- Where DEC comes to in a stream behind which `tail` is offered, and whether the slots that are left hold a collision: at the end
of the stream, or where it reads the collision as SENT. -/
def ReachesEnd (later : List Slot) (tail : List DecToken) (c : Cursor) : Prop :=
  (slotsCollisionFree later = true ∧ c.rem = 0#4 ∧ c.inp = tail) ∨
    (slotsCollisionFree later = false ∧ ∃ after, decode c = .instr .sent after)

theorem ReachesEnd.of_free_eq {later later' : List Slot} {tail : List DecToken} {c : Cursor}
    (h : ReachesEnd later' tail c) (hfree : slotsCollisionFree later = slotsCollisionFree later') :
    ReachesEnd later tail c := by
  rwa [ReachesEnd, hfree]

/-- A control byte that is fetched and loaded is read on; the slots that are left behind it are those that were left before it. -/
theorem reads_of_loaded {c c₁ c' : Cursor} {l : List Instr} {later : List Slot} {tail : List DecToken}
    (hload : decode c = decode c₁) (hrem : c₁.rem ≠ 0#4) (hreads : Reads c₁ l c') (hend : ReachesEnd later tail c') :
    ∃ c', Reads c l c' ∧ ReachesEnd later tail c' := by
  rcases hreads.of_decode_eq hload with hreads | ⟨rfl, rfl⟩
  · exact ⟨c', hreads, hend⟩
  · rcases hend with ⟨_, hzero, _⟩ | ⟨hfree, after, hsent⟩
    · exact absurd hzero hrem
    · exact ⟨c, .nil c, .inr ⟨hfree, after, hload.trans hsent⟩⟩

/-- DEC reads the fields of a stream whose slots all stand before the first collision, by induction on the stream. -/
theorem Streams.reads {avail : List Slot} {l : List Instr} {bytes : List Byte} (h : Streams avail l bytes)
    (tail : List DecToken) {later : List Slot} (hlater : l.flatMap slotsOf = avail ++ later) {c : Cursor}
    (hslots : HoldsSlots c.ctrl c.rem avail) (hinp : c.inp = bytes.map DecToken.byte ++ tail) :
    ∃ c', Reads c (fieldsWithin (avail.length + (slotsBeforeCollision later).length) l) c'
      ∧ ReachesEnd later tail c' := by
  induction h generalizing later c with
  | nil =>
    obtain rfl : [] = later := hlater
    exact ⟨c, .nil c, .inl ⟨rfl, hslots, hinp⟩⟩
  | @fetch s0 s1 s2 s3 l bytes hstream ih =>
    obtain ⟨later', hlater'⟩ := hstream.exists_later
    obtain rfl : s0 :: s1 :: s2 :: s3 :: later' = later := hlater'.symm.trans hlater
    by_cases hcoll : packByte s0 s1 s2 s3 = Config.sentinel
    · obtain ⟨hnone, hfree⟩ := slotsBeforeCollision_collided later' hcoll
      rw [hnone, List.length_nil, fieldsWithin_zero]
      exact ⟨c, .nil c, .inr ⟨hfree, _, decode_boundary_sentinel hslots (hcoll ▸ hinp)⟩⟩
    · obtain ⟨hlen, hfree⟩ := slotsBeforeCollision_passed later' hcoll
      obtain ⟨c', hreads, hend⟩ := ih hlater' (c := ⟨packByte s0 s1 s2 s3, 8#4, bytes.map DecToken.byte ++ tail⟩)
        (holdsSlots_packByte s0 s1 s2 s3) rfl
      rw [hlen, List.length_nil, Nat.zero_add]
      exact reads_of_loaded (decode_boundary_loaded hslots hinp hcoll) (by simp) hreads (hend.of_free_eq hfree)
  | @field i avail l bytes hi hstream ih =>
    have hlater' : l.flatMap slotsOf = avail ++ later := by simpa using hlater
    obtain ⟨after, hdecode, hslots', hinp'⟩ := decode_field hi hslots (by simpa using hinp)
    obtain ⟨c', hreads, hend⟩ := ih hlater' hslots' hinp'
    refine ⟨c', ?_, hend⟩
    rw [List.length_append, Nat.add_assoc, fieldsWithin_add]
    exact .cons hi hdecode hreads
  | @selector sel s1 s2 s3 l bytes hstream ih =>
    obtain ⟨later', hlater'⟩ := hstream.exists_later
    obtain rfl : sel :: s1 :: s2 :: s3 :: later' = later := by simpa [slotsOf, hlater'] using hlater
    obtain ⟨hrem, hslot, hlast⟩ := hslots
    have hempty : c.dropSlot.rem = 0#4 := hlast
    have hmodp : decode c = readSelector c c.dropSlot := decode_modifyPrev hrem hslot
    by_cases hcoll : packByte sel s1 s2 s3 = Config.sentinel
    · obtain ⟨hnone, hfree⟩ := slotsBeforeCollision_collided later' hcoll
      rw [hnone]
      exact ⟨c, .nil c, .inr ⟨hfree, _, hmodp.trans (readSelector_sentinel hempty c (hcoll ▸ hinp))⟩⟩
    · obtain ⟨hlen, hfree⟩ := slotsBeforeCollision_passed later' hcoll
      obtain ⟨_, hsel, hslots'⟩ := holdsSlots_packByte sel s1 s2 s3
      obtain ⟨c', hreads, hend⟩ := ih hlater' (c := ⟨packByte sel s1 s2 s3, 6#4, bytes.map DecToken.byte ++ tail⟩)
        hslots' rfl
      have hdecode := hmodp.trans (readSelector_loaded hempty c hinp hcoll)
      rw [hsel] at hdecode
      have hcount : 1 + (4 + (slotsBeforeCollision later').length)
          = (slotsOf (.modp sel)).length + (3 + (slotsBeforeCollision later').length) := by
        simp only [slotsOf, List.length_cons, List.length_nil]
        omega
      rw [hlen, List.length_singleton, hcount, fieldsWithin_add]
      exact ⟨c', .cons (by simp) hdecode hreads, hend.of_free_eq hfree⟩

/-- The parse of the bytes of a listing: the fields before the first collision, and then the end of the listing or the
collision. -/
theorem reads_of_assemble {fields : List Instr} (hfields : ∀ i ∈ fields, i ≠ .sent) {bytes : List Byte}
    (h : assemble fields = some bytes) (tail : List DecToken) :
    ∃ c', Reads ⟨0#8, 0#4, bytes.map DecToken.byte ++ tail⟩ (fieldsBeforeCollision fields) c'
      ∧ ReachesEnd (fields.flatMap slotsOf) tail c' := by
  have hreads := (streams_of_assemble hfields h).reads tail (later := fields.flatMap slotsOf) rfl
    (c := ⟨0#8, 0#4, bytes.map DecToken.byte ++ tail⟩) rfl rfl
  rwa [List.length_nil, Nat.zero_add] at hreads

/-! ### How many fields a stream can hold (R163) -/

/-- Four slots for each token that is offered, and those left of the control byte: more fields DEC cannot read. -/
def slotBudget (c : Cursor) : Nat := 4 * c.inp.length + c.rem.toNat / 2

theorem FieldAnswer.slotBudget_lt {c : Cursor} {a : Decoded} (h : FieldAnswer c a)
    (hrem : c.rem = 2#4 ∨ c.rem = 4#4 ∨ c.rem = 6#4 ∨ c.rem = 8#4) :
    slotBudget (answerCursor a) < slotBudget c ∨ a = .starved c := by
  have hdrop : (c.rem - 2#4).toNat / 2 < c.rem.toNat / 2 := by
    rcases hrem with hr | hr | hr | hr <;> simp [hr]
  cases h with
  | litWaits | selWaits => exact .inr rfl
  | litEnds _ hinp | lit _ hinp =>
    simp only [slotBudget, answerCursor, hinp, List.length_cons]
    omega
  | selEnds _ hlast hinp | selSentinel _ hlast hinp | modpNext _ hlast hinp _ =>
    simp only [slotBudget, answerCursor, hinp, List.length_cons, BitVec.toNat_ofNat]
    omega
  | modpHere _ hmore =>
    have hdrop' : (c.rem - 2#4 - 2#4).toNat / 2 < c.rem.toNat / 2 := by
      rcases hrem with hr | hr | hr | hr
      · exact absurd hr hmore
      all_goals simp [hr]
    exact .inl (Nat.add_lt_add_left hdrop' _)
  | rep2 | rep1 => exact .inl (Nat.add_lt_add_left hdrop _)

/-- Every field, and every end of the stream, uses up some of it. -/
theorem Answer.slotBudget_lt {c : Cursor} {a : Decoded} (h : Answer c a) (hc : CursorAtRest c)
    (hcomplete : ∀ w, a ≠ .starved w) : slotBudget (answerCursor a) < slotBudget c := by
  cases h with
  | fetchWaits => exact absurd rfl (hcomplete c)
  | fetchEnds hrem hinp | fetchSentinel hrem hinp =>
    simp only [slotBudget, answerCursor, hinp, List.length_cons, BitVec.toNat_ofNat]
    omega
  | loaded hrem hinp _ hfield =>
    rcases hfield.slotBudget_lt (by simp) with hlt | rfl
    · simp only [slotBudget, hinp, List.length_cons, BitVec.toNat_ofNat] at hlt ⊢
      omega
    · exact absurd rfl (hcomplete _)
  | inside hrem hfield =>
    have hcount : c.rem = 2#4 ∨ c.rem = 4#4 ∨ c.rem = 6#4 ∨ c.rem = 8#4 := by
      rcases hc with ⟨hcount, _⟩ | ⟨hr, _⟩ <;> tauto
    rcases hfield.slotBudget_lt hcount with hlt | rfl
    · exact hlt
    · exact absurd rfl (hcomplete c)

theorem slotBudget_lt_of_instr {c after : Cursor} {i : Instr} (hc : CursorAtRest c) (h : decode c = .instr i after) :
    slotBudget after < slotBudget c :=
  (h ▸ decode_answer c).slotBudget_lt hc (by simp)

theorem cursorAtRest_of_instr {c after : Cursor} {i : Instr} (hc : CursorAtRest c) (h : decode c = .instr i after) :
    CursorAtRest after :=
  .inl ((h ▸ decode_answer c).atRest hc)

theorem Reads.length_le {c c' : Cursor} {l : List Instr} (h : Reads c l c') (hc : CursorAtRest c) :
    l.length ≤ slotBudget c := by
  induction h with
  | nil => exact Nat.zero_le _
  | cons _ hd _ ih =>
    have hle := ih (cursorAtRest_of_instr hc hd)
    have hlt := slotBudget_lt_of_instr hc hd
    rw [List.length_cons]
    omega

theorem cursorAtRest_boundary (ctrl : Byte) (inp : List DecToken) : CursorAtRest ⟨ctrl, 0#4, inp⟩ :=
  .inl ⟨.inl rfl, .inl rfl⟩

theorem slotBudget_start (bytes : List Byte) : slotBudget (Cursor.start bytes) = 4 * (bytes.length + 1) := by
  simp [slotBudget, Cursor.start, decTokens]

/-! ### Disassembly (R67) -/

theorem parse_of_reads {c c' : Cursor} {l : List Instr} (h : Reads c l c') (fuel : Nat) :
    parse (l.length + fuel) c = (l ++ (parse fuel c').1, (parse fuel c').2) := by
  induction h with
  | nil => simp
  | @cons c m c' i l hi hd _ ih =>
    have hstep : parse (l.length + fuel + 1) c = (i :: (parse (l.length + fuel) m).1, (parse (l.length + fuel) m).2) := by
      rw [parse, hd]
      cases i with
      | sent => exact absurd rfl hi
      | lit _ | modp _ | rep2 | rep1 => rfl
    rw [List.length_cons, Nat.add_right_comm, hstep, ih]
    rfl

/-- The fuel of a disassembly is enough for all fields of the stream and what ends them. -/
theorem disassemble_of_reads {bytes : List Byte} {l : List Instr} {c' : Cursor}
    (h : Reads (Cursor.start bytes) l c') :
    ∃ fuel, disassemble bytes = (l ++ (parse (fuel + 1) c').1, (parse (fuel + 1) c').2) := by
  have hlen := h.length_le (cursorAtRest_boundary _ _)
  rw [slotBudget_start] at hlen
  obtain ⟨fuel, hfuel⟩ := Nat.exists_eq_add_of_le hlen
  refine ⟨fuel, ?_⟩
  rw [disassemble, hfuel, Nat.add_assoc]
  exact parse_of_reads h _

/-- Settles O35: the fields are read back one after the other, and behind them the sentinel or the end of the stream. -/
theorem disassemblyInvertsAssembly : Obligations.DisassemblyInvertsAssembly := by
  intro fields bytes hfields hfree
  have hall := fieldsBeforeCollision_of_free hfree
  refine ⟨fun h => ?_, fun h => ?_⟩
  · rw [assemble_append_sent hfields, Option.map_eq_some_iff] at h
    obtain ⟨body, hbody, rfl⟩ := h
    obtain ⟨c', hreads, hend⟩ := reads_of_assemble hfields hbody [.byte Config.sentinel, .eof]
    rw [hall] at hreads
    rcases hend with ⟨_, hrem, hinp⟩ | ⟨hcoll, _⟩
    · obtain ⟨fuel, hparse⟩ := disassemble_of_reads (bytes := body ++ [Config.sentinel])
        (by simpa [Cursor.start, decTokens] using hreads)
      simp [hparse, parse, decode_boundary_sentinel hrem hinp]
    · exact absurd (hfree.symm.trans hcoll) (by decide)
  · obtain ⟨c', hreads, hend⟩ := reads_of_assemble hfields h [.eof]
    rw [hall] at hreads
    rcases hend with ⟨_, hrem, hinp⟩ | ⟨hcoll, _⟩
    · obtain ⟨fuel, hparse⟩ := disassemble_of_reads (bytes := bytes) hreads
      simp [hparse, parse, decode_boundary_eof hrem hinp]
    · exact absurd (hfree.symm.trans hcoll) (by decide)

end Sys2Proof.Proofs
end

section
/-! DEC's whole runs (R12, R111): over the fields it reads, to the end of every finite stream (R163), and over an assembled
listing. -/

namespace Sys2Proof.Proofs

open Sys2Proof.Machine Sys2Proof.Safety

/-! ### The byte a field stands for (R58) -/

/-- The byte a field stands for with this history, if it stands for one. -/
def fieldValue (p0 p1 : OptByte) : Instr → Option Byte
  | .lit b => some b
  | .modp sel => (odr p1)[sel.toNat]?
  | .rep2 => p0.toOption
  | .rep1 => p1.toOption
  | .sent => none

theorem bytesFrom_cons (p0 p1 : OptByte) (i : Instr) (l : List Instr) :
    bytesFrom p0 p1 (i :: l) = (fieldValue p0 p1 i).elim [] fun v => v :: bytesFrom p1 (.ofByte v) l := by
  cases i with
  | lit _ | sent => rfl
  | modp _ | rep2 | rep1 =>
    simp only [bytesFrom, fieldValue]
    split <;> simp [*]

section
variable {p0 p1 : OptByte} {i : Instr}

theorem bytesFrom_cons_some {v : Byte} (h : fieldValue p0 p1 i = some v) (l : List Instr) :
    bytesFrom p0 p1 (i :: l) = v :: bytesFrom p1 (.ofByte v) l := by
  rw [bytesFrom_cons, h]
  rfl

/-- When each field of a list has its byte, so has the first one, and so have the others behind it. -/
theorem fieldValue_of_bytesFrom_length {l : List Instr} (h : (bytesFrom p0 p1 (i :: l)).length = (i :: l).length) :
    ∃ v, fieldValue p0 p1 i = some v ∧ (bytesFrom p1 (.ofByte v) l).length = l.length := by
  cases hv : fieldValue p0 p1 i with
  | none => simp [bytesFrom_cons, hv] at h
  | some v =>
    rw [bytesFrom_cons_some hv] at h
    exact ⟨v, rfl, Nat.succ.inj h⟩

end

/-- An instruction writes the byte it stands for, and stops DEC when it stands for none (R114 to R119). -/
theorem exec_fieldValue (i : Instr) (s : State) :
    (∃ v, fieldValue s.dec.p0 s.dec.p1 i = some v ∧ exec i s = .next (s.onDec (decEmit v))) ∨
      (fieldValue s.dec.p0 s.dec.p1 i = none ∧ ∃ why, why ≠ .none ∧ exec i s = .next (s.onDec (decStop why))) := by
  by_cases hi : i = .sent
  · subst hi
    exact .inr ⟨rfl, .sentinel, by decide, rfl⟩
  · have hexec : exec i s = .next (s.onDec (decEmitOrStop (fieldValue s.dec.p0 s.dec.p1 i))) := by
      cases i with
      | sent => exact absurd rfl hi
      | lit _ | modp _ | rep2 | rep1 => rfl
    rw [hexec]
    cases fieldValue s.dec.p0 s.dec.p1 i with
    | some v => exact .inl ⟨v, rfl, rfl⟩
    | none => exact .inr ⟨rfl, .undefRef, by decide, rfl⟩

/-! ### DEC in its run while ENC waits and the host takes every byte -/

/-- The machine with this DEC, and the rest as after reset. -/
def decAlone (d : DecState) : State := { State.reset with dec := d }

/-- DEC in `RUN` with this history and output, at this cursor. -/
def decRunning (p0 p1 : OptByte) (out : List Byte) (c : Cursor) : DecState :=
  { DecState.reset with p0 := p0, p1 := p1, out := out, ctrl := c.ctrl, rem := c.rem, inp := c.inp }

/-- DEC stopped there with this status. -/
def decStopped (p0 p1 : OptByte) (out : List Byte) (c : Cursor) (why : DecStatus) : DecState :=
  { decRunning p0 p1 out c with status := why, phase := .done }

/-- ENC has nothing to do right after reset, so a step of the machine is DEC's. -/
theorem step_decAlone (d : DecState) : step (decAlone d) = decTurn (decAlone d) := rfl

/-- In `DONE` DEC stays as it is. -/
theorem run_decStopped (k : Nat) (p0 p1 : OptByte) (out : List Byte) (c : Cursor) (why : DecStatus) :
    run k (decAlone (decStopped p0 p1 out c why)) = .next (decAlone (decStopped p0 p1 out c why)) := by
  induction k with
  | zero => rfl
  | succ k ih => rw [run_succ_of_step k (m := decAlone (decStopped p0 p1 out c why)) rfl, ih]

section
variable (p0 p1 : OptByte) (out : List Byte) {c : Cursor} (hc : CursorAtRest c)
include hc

theorem step_decRunning :
    step (decAlone (decRunning p0 p1 out c)) = decRun (decode c) (decAlone (decRunning p0 p1 out c)) := by
  have hlegal : decLegal (decRunning p0 p1 out c) = true := ((cursorAtRest_iff (d := decRunning p0 p1 out c)).mp hc).1
  rw [step_decAlone, decTurn_of_mayStep (decMayStep_iff.mpr ⟨rfl, rfl, rfl, hlegal⟩)]
  rfl

/-- A field with a byte is one step: it writes the byte. -/
theorem step_decRunning_writes {i : Instr} {after : Cursor} {v : Byte} (h : decode c = .instr i after)
    (hv : fieldValue p0 p1 i = some v) :
    step (decAlone (decRunning p0 p1 out c)) = .next (decAlone (decRunning p1 (.ofByte v) (out ++ [v]) after)) := by
  rw [step_decRunning p0 p1 out hc, h]
  rcases exec_fieldValue i (decAlone (decRunning p0 p1 out after)) with ⟨w, hw, hexec⟩ | ⟨hnone, _⟩
  · obtain rfl : v = w := Option.some.inj (hv.symm.trans hw)
    exact hexec
  · cases hv.symm.trans hnone

/-- A field without one is one step: DEC stops behind it. -/
theorem step_decRunning_stops {i : Instr} {after : Cursor} (h : decode c = .instr i after)
    (hv : fieldValue p0 p1 i = none) :
    ∃ why, why ≠ .none
      ∧ step (decAlone (decRunning p0 p1 out c)) = .next (decAlone (decStopped p0 p1 out after why)) := by
  rw [step_decRunning p0 p1 out hc, h]
  rcases exec_fieldValue i (decAlone (decRunning p0 p1 out after)) with ⟨w, hw, _⟩ | ⟨_, why, hwhy, hexec⟩
  · cases hv.symm.trans hw
  · exact ⟨why, hwhy, hexec⟩

theorem step_decRunning_sent {after : Cursor} (h : decode c = .instr .sent after) :
    step (decAlone (decRunning p0 p1 out c)) = .next (decAlone (decStopped p0 p1 out after .sentinel)) := by
  rw [step_decRunning p0 p1 out hc, h]
  rfl

theorem step_decRunning_ends {why : StreamEnd} {after : Cursor} (h : decode c = .ends why after) :
    step (decAlone (decRunning p0 p1 out c)) = .next (decAlone (decStopped p0 p1 out after (endStatus why))) := by
  rw [step_decRunning p0 p1 out hc, h]
  rfl

end

/-! ### The run over fields that are read -/

theorem Reads.cursorAtRest {c c' : Cursor} {l : List Instr} (h : Reads c l c') (hc : CursorAtRest c) : CursorAtRest c' := by
  induction h with
  | nil => exact hc
  | cons _ hd _ ih => exact ih (cursorAtRest_of_instr hc hd)

/-- One step for each field, and one byte. -/
theorem Reads.run_eq {c c' : Cursor} {l : List Instr} (h : Reads c l c') (hc : CursorAtRest c) {p0 p1 : OptByte}
    (hbytes : (bytesFrom p0 p1 l).length = l.length) (out : List Byte) (k : Nat) :
    ∃ q0 q1, run (l.length + k) (decAlone (decRunning p0 p1 out c))
      = run k (decAlone (decRunning q0 q1 (out ++ bytesFrom p0 p1 l) c')) := by
  induction h generalizing p0 p1 out with
  | nil c => exact ⟨p0, p1, by simp [bytesFrom]⟩
  | @cons c m c' i l hi hd _ ih =>
    obtain ⟨v, hv, hbytes'⟩ := fieldValue_of_bytesFrom_length hbytes
    obtain ⟨q0, q1, hrun⟩ := ih (cursorAtRest_of_instr hc hd) hbytes' (out ++ [v])
    refine ⟨q0, q1, ?_⟩
    rw [List.length_cons, Nat.add_right_comm, run_succ_of_step _ (step_decRunning_writes p0 p1 out hc hd hv), hrun,
      bytesFrom_cons_some hv, List.append_assoc, List.singleton_append]

/-- DEC's run on a stream whose fields it reads up to a sentinel: it writes their bytes and stops with `SENTINEL` (R124). -/
theorem decodeRun_of_reads {bytes : List Byte} {l : List Instr} {c' after : Cursor}
    (h : Reads (Cursor.start bytes) l c') (hsent : decode c' = .instr .sent after)
    (hbytes : (bytesFrom .undef .undef l).length = l.length) :
    ∃ t, decodeRun bytes = .next t ∧ t.dec.out = bytesFrom .undef .undef l ∧ endedAtSentinel t = true
      ∧ t.dec.inp = after.inp := by
  have hc : CursorAtRest (Cursor.start bytes) := cursorAtRest_boundary _ _
  have hlen := h.length_le hc
  rw [slotBudget_start] at hlen
  obtain ⟨k, hk⟩ := Nat.exists_eq_add_of_le hlen
  have hstart : decodeStart bytes = decAlone (decRunning .undef .undef [] (Cursor.start bytes)) := rfl
  obtain ⟨q0, q1, hrun⟩ := h.run_eq hc hbytes [] (k + 1)
  rw [List.nil_append, run_succ_of_step k (step_decRunning_sent q0 q1 _ (h.cursorAtRest hc) hsent),
    run_decStopped] at hrun
  refine ⟨decAlone (decStopped q0 q1 (bytesFrom .undef .undef l) after .sentinel), ?_, rfl, rfl, rfl⟩
  rw [decodeRun, decodeSteps, hk, hstart, Nat.add_assoc]
  exact hrun

/-! ### The end of every finite stream (R125, R163) -/

/-- An answer from which a stream that ends in `EOF` still does: DEC does not wait, and behind a field other than SENT the stream
goes on. -/
def EofFollows : Decoded → Prop
  | .instr i after => i = .sent ∨ ∃ bytes, after.inp = decTokens bytes
  | .ends _ _ => True
  | .starved _ => False

theorem decTokens_ne_nil (bytes : List Byte) : decTokens bytes ≠ [] := by
  simp [decTokens]

theorem decTokens_tail {bytes : List Byte} {b : Byte} {rest : List DecToken} (h : decTokens bytes = .byte b :: rest) :
    ∃ bytes', rest = decTokens bytes' := by
  cases bytes with
  | nil => simp [decTokens] at h
  | cons b' bytes' => exact ⟨bytes', (List.cons.inj h).2.symm⟩

theorem FieldAnswer.eofFollows {c : Cursor} {a : Decoded} (h : FieldAnswer c a) {bytes : List Byte}
    (hc : c.inp = decTokens bytes) : EofFollows a := by
  cases h with
  | litWaits _ hinp | selWaits _ _ hinp => exact absurd (hc.symm.trans hinp) (decTokens_ne_nil bytes)
  | litEnds | selEnds => trivial
  | lit _ hinp | modpNext _ _ hinp _ => exact .inr (decTokens_tail (hc.symm.trans hinp))
  | selSentinel => exact .inl rfl
  | modpHere | rep2 | rep1 => exact .inr ⟨bytes, hc⟩

theorem Answer.eofFollows {c : Cursor} {a : Decoded} (h : Answer c a) {bytes : List Byte}
    (hc : c.inp = decTokens bytes) : EofFollows a := by
  cases h with
  | fetchWaits _ hinp => exact absurd (hc.symm.trans hinp) (decTokens_ne_nil bytes)
  | fetchEnds => trivial
  | fetchSentinel => exact .inl rfl
  | loaded _ hinp _ hfield =>
    obtain ⟨bytes', hrest⟩ := decTokens_tail (hc.symm.trans hinp)
    exact hfield.eofFollows hrest
  | inside _ hfield => exact hfield.eofFollows hc

/-- DEC stops before its slots and tokens are used up, and has written a byte for at most one slot each. -/
theorem run_decRunning_stops {c : Cursor} (hc : CursorAtRest c) {bytes : List Byte} (hinp : c.inp = decTokens bytes)
    (p0 p1 : OptByte) (out : List Byte) {k : Nat} (hk : slotBudget c < k) :
    ∃ q0 q1 out' after why, why ≠ .none ∧ out'.length ≤ out.length + slotBudget c
      ∧ run k (decAlone (decRunning p0 p1 out c)) = .next (decAlone (decStopped q0 q1 out' after why)) := by
  induction k generalizing c bytes p0 p1 out with
  | zero => omega
  | succ k ih =>
    have hstop (after : Cursor) (why : DecStatus) (hwhy : why ≠ .none)
        (hstep : step (decAlone (decRunning p0 p1 out c)) = .next (decAlone (decStopped p0 p1 out after why))) :
        ∃ q0 q1 out' after why, why ≠ .none ∧ out'.length ≤ out.length + slotBudget c
          ∧ run (k + 1) (decAlone (decRunning p0 p1 out c)) = .next (decAlone (decStopped q0 q1 out' after why)) :=
      ⟨p0, p1, out, after, why, hwhy, Nat.le_add_right _ _,
        (run_succ_of_step k hstep).trans (run_decStopped k p0 p1 out after why)⟩
    have hfollows := (decode_answer c).eofFollows hinp
    cases hd : decode c with
    | starved w =>
      rw [hd] at hfollows
      exact hfollows.elim
    | ends why after => exact hstop after _ (endStatus_ne_none why) (step_decRunning_ends p0 p1 out hc hd)
    | instr i after =>
      cases hv : fieldValue p0 p1 i with
      | none =>
        obtain ⟨why, hwhy, hstep⟩ := step_decRunning_stops p0 p1 out hc hd hv
        exact hstop after why hwhy hstep
      | some v =>
        rw [hd] at hfollows
        rcases hfollows with rfl | ⟨bytes', hrest⟩
        · cases hv
        · have hlt := slotBudget_lt_of_instr hc hd
          obtain ⟨q0, q1, out', after', why, hwhy, hlen, hrun⟩ :=
            ih (cursorAtRest_of_instr hc hd) hrest p1 (.ofByte v) (out ++ [v]) (by omega)
          rw [List.length_append, List.length_singleton] at hlen
          exact ⟨q0, q1, out', after', why, hwhy, by omega,
            (run_succ_of_step k (step_decRunning_writes p0 p1 out hc hd hv)).trans hrun⟩

/-- Settles O44: four slots for each token are all that a stream can hold. -/
theorem decodeStopsOnEveryStream : Obligations.DecodeStopsOnEveryStream := by
  refine ⟨fun bytes => ?_, _, rfl, rfl, rfl⟩
  have hbudget := slotBudget_start bytes
  obtain ⟨q0, q1, out, after, why, hwhy, hlen, hrun⟩ :=
    run_decRunning_stops (cursorAtRest_boundary 0#8 (decTokens bytes)) (bytes := bytes) rfl .undef .undef []
      (k := decodeSteps bytes) (by rw [decodeSteps, ← hbudget]; exact Nat.lt_succ_self _)
  rw [List.length_nil, Nat.zero_add] at hlen
  exact ⟨decAlone (decStopped q0 q1 out after why), hrun, rfl, hwhy, rfl, hlen.trans hbudget.le, rfl⟩

/-! ### The run over an assembled listing -/

theorem endsWithSent_cons_append (i : Instr) (fields : List Instr) :
    Listing.endsWithSent (i :: (fields ++ [.sent])) = (i != .sent && Listing.endsWithSent (fields ++ [.sent])) := by
  cases fields <;> rfl

/-- No field before the SENT that ends a listing is one (R55). -/
theorem ne_sent_of_endsWithSent {fields : List Instr} (h : Listing.endsWithSent (fields ++ [.sent]) = true) :
    ∀ i ∈ fields, i ≠ .sent := by
  induction fields with
  | nil => simp
  | cons i fields ih =>
    rw [List.cons_append, endsWithSent_cons_append, Bool.and_eq_true, bne_iff_ne] at h
    rw [List.forall_mem_cons]
    exact ⟨h.1, ih h.2⟩

/-- Every selector selects an option of a defined byte (R60). -/
theorem exists_option {x : OptByte} (sel : BitVec 2) (h : x.isDef = true) : ∃ v, (odr x)[sel.toNat]? = some v := by
  rw [odr_of_isDef h]
  exact ⟨_, List.getElem?_eq_getElem sel.isLt⟩

/-- When the history is defined where the fields refer to it, each of them has its byte (R64). -/
theorem bytesFrom_length_of_historyDefined {fields rest : List Instr} (hfields : ∀ i ∈ fields, i ≠ .sent) {n : Nat}
    {p0 p1 : OptByte} (h1 : 1 ≤ n → p1.isDef = true) (h0 : 2 ≤ n → p0.isDef = true)
    (h : Listing.historyDefined n (fields ++ rest) = true) : (bytesFrom p0 p1 fields).length = fields.length := by
  induction fields generalizing n p0 p1 with
  | nil => rfl
  | cons i fields ih =>
    rw [List.forall_mem_cons] at hfields
    obtain ⟨hi, hfields⟩ := hfields
    have hvalue : ∃ v, fieldValue p0 p1 i = some v ∧ Listing.historyDefined (n + 1) (fields ++ rest) = true := by
      cases i with
      | sent => exact absurd rfl hi
      | lit b => exact ⟨b, rfl, h⟩
      | modp sel =>
        simp only [List.cons_append, Listing.historyDefined, Bool.and_eq_true, decide_eq_true_eq] at h
        obtain ⟨v, hv⟩ := exists_option sel (h1 h.1)
        exact ⟨v, hv, h.2⟩
      | rep2 =>
        simp only [List.cons_append, Listing.historyDefined, Bool.and_eq_true, decide_eq_true_eq] at h
        exact ⟨_, toOption_of_isDef (h0 h.1), h.2⟩
      | rep1 =>
        simp only [List.cons_append, Listing.historyDefined, Bool.and_eq_true, decide_eq_true_eq] at h
        exact ⟨_, toOption_of_isDef (h1 h.1), h.2⟩
    obtain ⟨v, hv, hrest⟩ := hvalue
    rw [bytesFrom_cons_some hv, List.length_cons, List.length_cons,
      ih hfields (n := n + 1) (fun _ => rfl) (fun h2 => h1 (by omega)) hrest]

/-- Settles O41: the parse of the listing, and DEC's run over it. -/
theorem decoderRunsTheListing : Obligations.DecoderRunsTheListing := by
  intro fields bytes hwf hfree h
  simp only [Listing.wellFormed, Bool.and_eq_true] at hwf
  obtain ⟨⟨⟨_, _⟩, hends⟩, hhistory⟩ := hwf
  have hfields := ne_sent_of_endsWithSent hends
  rw [assemble_append_sent hfields, Option.map_eq_some_iff] at h
  obtain ⟨body, hbody, rfl⟩ := h
  obtain ⟨c', hreads, hend⟩ := reads_of_assemble hfields hbody [.byte Config.sentinel, .eof]
  rw [fieldsBeforeCollision_of_free hfree] at hreads
  rcases hend with ⟨_, hrem, hinp⟩ | ⟨hcoll, _⟩
  · have hbytes : (bytesFrom .undef .undef fields).length = fields.length :=
      bytesFrom_length_of_historyDefined hfields (by simp) (by simp) hhistory
    obtain ⟨t, hrun, hout, hsent, hinp'⟩ := decodeRun_of_reads (bytes := body ++ [Config.sentinel])
      (by simpa [Cursor.start, decTokens] using hreads) (decode_boundary_sentinel hrem hinp) hbytes
    exact ⟨t, hrun, hout, by rw [hout, hbytes], hsent, hinp'⟩
  · exact absurd (hfree.symm.trans hcoll) (by decide)

end Sys2Proof.Proofs
end

section
/-! ENC's whole run as the assembly of the fields it chooses (R12, R67), and the decoding of what it writes (R106, R123, R124). -/

namespace Sys2Proof.Proofs

open Sys2Proof.Machine Sys2Proof.Safety

/-! ### What the chosen fields stand for (R88 to R92) -/

/-- ENC chooses a field that stands for the byte with the same history. -/
theorem fieldValue_encChoose (p0 p1 : OptByte) (b : Byte) : fieldValue p0 p1 (encChoose p0 p1 b) = some b := by
  rcases encChoose_cases p0 p1 b with ⟨rfl, h⟩ | ⟨rfl, h⟩ | ⟨i, hi, h⟩ | h <;> rw [h]
  · rfl
  · rfl
  · exact hi
  · rfl

theorem encChoose_ne_sent (p0 p1 : OptByte) (b : Byte) : encChoose p0 p1 b ≠ .sent := by
  intro h
  have hv := fieldValue_encChoose p0 p1 b
  rw [h] at hv
  cases hv

theorem fieldsFrom_ne_sent (p0 p1 : OptByte) (raw : List Byte) : ∀ i ∈ fieldsFrom p0 p1 raw, i ≠ .sent := by
  induction raw generalizing p0 p1 with
  | nil => simp [fieldsFrom]
  | cons b raw ih =>
    rw [fieldsFrom, List.forall_mem_cons]
    exact ⟨encChoose_ne_sent p0 p1 b, ih p1 (.ofByte b)⟩

theorem bytesFrom_fieldsFrom (p0 p1 : OptByte) (raw : List Byte) : bytesFrom p0 p1 (fieldsFrom p0 p1 raw) = raw := by
  induction raw generalizing p0 p1 with
  | nil => rfl
  | cons b raw ih => rw [fieldsFrom, bytesFrom_cons_some (fieldValue_encChoose p0 p1 b), ih]

theorem fieldsFrom_length (p0 p1 : OptByte) (raw : List Byte) : (fieldsFrom p0 p1 raw).length = raw.length := by
  induction raw generalizing p0 p1 with
  | nil => rfl
  | cons b raw ih => rw [fieldsFrom, List.length_cons, ih, List.length_cons]

theorem fieldsFrom_take (p0 p1 : OptByte) (raw : List Byte) (n : Nat) :
    (fieldsFrom p0 p1 raw).take n = fieldsFrom p0 p1 (raw.take n) := by
  induction raw generalizing p0 p1 n with
  | nil => simp [fieldsFrom]
  | cons b raw ih =>
    cases n with
    | zero => rfl
    | succ n => rw [fieldsFrom, List.take_succ_cons, List.take_succ_cons, fieldsFrom, ih]

/-- The listing that ENC's fields and SENT make is one whose history is defined where they refer to it (R34, R64). -/
theorem historyDefined_fieldsFrom {p0 p1 : OptByte} {n : Nat} (h1 : p1.isDef = true → 1 ≤ n)
    (h0 : p0.isDef = true → 2 ≤ n) (raw : List Byte) :
    Listing.historyDefined n (fieldsFrom p0 p1 raw ++ [.sent]) = true := by
  induction raw generalizing p0 p1 n with
  | nil => rfl
  | cons b raw ih =>
    have hrest := ih (p0 := p1) (p1 := .ofByte b) (n := n + 1) (fun _ => by omega) (fun h => by have := h1 h; omega)
    rw [fieldsFrom, List.cons_append]
    rcases encChoose_cases p0 p1 b with ⟨rfl, h⟩ | ⟨rfl, h⟩ | ⟨i, hi, h⟩ | h <;> rw [h]
    · simpa [Listing.historyDefined, hrest] using h1 rfl
    · simpa [Listing.historyDefined, hrest] using h0 rfl
    · have hdef : p1.isDef = true := by
        by_contra hundef
        simp [odr_undef (Bool.eq_false_of_not_eq_true hundef)] at hi
      simpa [Listing.historyDefined, hrest] using h1 hdef
    · exact hrest

theorem endsWithSent_append {fields : List Instr} (h : ∀ i ∈ fields, i ≠ .sent) :
    Listing.endsWithSent (fields ++ [.sent]) = true := by
  induction fields with
  | nil => rfl
  | cons i fields ih =>
    rw [List.forall_mem_cons] at h
    rw [List.cons_append, endsWithSent_cons_append, ih h.2]
    simpa using h.1

/-! ### ENC's passes as the assembler's work (R93 to R97) -/

/-- Whether no collision has been written and none is among these slots, behind one field more. -/
theorem Packs.collisionFree {slots slots' : List Slot} {lits lits' out : List Byte} {i : Instr}
    (h : Packs slots lits i slots' lits' out) (more : List Slot) :
    slotsCollisionFree (slots ++ slotsOf i ++ more)
      = (!(out.head? == some Config.sentinel) && slotsCollisionFree (slots' ++ more)) := by
  cases h with
  | short => simp
  | full h =>
    rw [h]
    simp [slotsCollisionFree, bne]

/-- The passes over `raw` are the assembly of the chosen fields: what they write, what they leave waiting, and the collision
flag. -/
theorem EncFilled.passes {slots : List Slot} {lits : List Byte} {e : EncState} (h : EncFilled slots lits e)
    (hs : slots.length < 4) (raw : List Byte) :
    ∃ slots' lits' out, EncFilled slots' lits' (raw.foldl (fun e b => encPass b e) e) ∧ slots'.length < 4
      ∧ encWritten (raw.foldl (fun e b => encPass b e) e) = encWritten e ++ out
      ∧ (∀ l, assembleFrom slots lits (fieldsFrom e.p0 e.p1 raw ++ l) = (assembleFrom slots' lits' l).map (out ++ ·))
      ∧ (!(raw.foldl (fun e b => encPass b e) e).coll && slotsCollisionFree slots')
          = (!e.coll && slotsCollisionFree (slots ++ (fieldsFrom e.p0 e.p1 raw).flatMap slotsOf)) := by
  induction raw generalizing slots lits e with
  | nil => exact ⟨slots, lits, [], h, hs, by simp, by simp [fieldsFrom], by simp [fieldsFrom]⟩
  | cons b raw ih =>
    obtain ⟨slots₁, lits₁, out₁, hpacks, hfilled, hwritten, hcoll⟩ := h.pass b hs
    obtain ⟨hp0, hp1, _⟩ := encPass_frame b e
    obtain ⟨slots', lits', out, hfilled', hs', hwritten', hassemble, hcoll'⟩ :=
      ih hfilled (packs_encField_length_lt hpacks hs)
    rw [hp0, hp1] at hassemble hcoll'
    have hfields : fieldsFrom e.p0 e.p1 (b :: raw) = encField b e :: fieldsFrom e.p1 (.ofByte b) raw := rfl
    refine ⟨slots', lits', out₁ ++ out, hfilled', hs', ?_, fun l => ?_, ?_⟩
    · rw [List.foldl_cons, hwritten', hwritten, List.append_assoc]
    · rw [hfields, List.cons_append, assembleFrom_cons hpacks (absurd · (encField_ne_sent b e)), hassemble,
        Option.map_map]
      congr 1
      funext bytes
      exact (List.append_assoc _ _ _).symm
    · have hfree := hpacks.collisionFree ((fieldsFrom e.p1 (.ofByte b) raw).flatMap slotsOf)
      rw [List.append_assoc] at hfree
      rw [List.foldl_cons, hcoll', hcoll, hfields, List.flatMap_cons, hfree, Bool.not_or, Bool.and_assoc]

/-! ### The encode run (R12, R98) -/

theorem encFilled_reset : EncFilled [] [] EncState.reset :=
  ⟨⟨rfl, by simp [accSlots, EncState.reset], rfl, rfl⟩, by decide, .inl rfl⟩

theorem foldl_encPass_withInp (raw : List Byte) (inp : List EncToken) (e : EncState) :
    raw.foldl (fun e b => encPass b e) (withInp inp e) = withInp inp (raw.foldl (fun e b => encPass b e) e) :=
  List.foldl_hom (g₁ := fun e b => encPass b e) (g₂ := fun e b => encPass b e) (withInp inp)
    fun e b => encPass_withInp b inp e

/-- One pass for each byte and then the end, while DEC waits. -/
theorem run_encode (raw : List Byte) {s : State} (hhost : s.host = []) (hdec : s.dec = .reset)
    (h : EncReady (encTokens raw) s.enc) :
    run (raw.length + 1) s = .next (s.onEnc fun e => encEnd (withInp [] (raw.foldl (fun e b => encPass b e) e))) := by
  induction raw generalizing s with
  | nil => exact run_succ_of_step 0 (h.step_eq hhost hdec)
  | cons b raw ih =>
    have hrest := ih (s := s.onEnc fun e => encPass b (withInp (encTokens raw) e)) hhost hdec
      (EncReady.pass b (EncReady.take_token h))
    rw [List.length_cons, run_succ_of_step _ (EncReady.step_eq hhost hdec h)]
    refine hrest.trans (congrArg Host.Outcome.next ?_)
    simp only [State.onEnc, encPass_withInp, foldl_encPass_withInp, List.foldl_cons]
    rfl

/-- The passes over a raw sequence and its pad bytes are those of the run up to the sentinel. -/
theorem foldl_encPass_padded (raw : List Byte) :
    (padded raw).foldl (fun e b => encPass b e) EncState.reset = encPad 4 (encAfterBytes raw) := by
  rw [padded, List.foldl_append, encPad_eq_foldl]
  rfl

/-- ENC after the bytes of a raw sequence, from reset. -/
theorem encFilled_afterBytes (raw : List Byte) :
    ∃ slots lits, EncFilled slots lits (encAfterBytes raw) ∧ slots.length < 4 := by
  obtain ⟨slots, lits, _, hfilled, hs, _⟩ := encFilled_reset.passes (by decide) raw
  exact ⟨slots, lits, hfilled, hs⟩

theorem padCountOf_le (raw : List Byte) : padCountOf raw ≤ 4 := by
  obtain ⟨slots, lits, hfilled, hs⟩ := encFilled_afterBytes raw
  obtain ⟨body, hpads, _⟩ := hfilled.padsTo hs
  rw [padCountOf, Config.padMax, hpads.count]
  exact padPasses_le _ _

/-- The fields ENC chooses for a raw sequence and its pad bytes. -/
def encodedFields (raw : List Byte) : List Instr := fieldsFrom .undef .undef (padded raw)

theorem encodedFields_ne_sent (raw : List Byte) : ∀ i ∈ encodedFields raw, i ≠ .sent :=
  fieldsFrom_ne_sent _ _ _

/-- What the pad passes leave written is the assembly of the fields, and the flag says whether they have a collision. -/
theorem assemble_encodedFields (raw : List Byte) :
    assemble (encodedFields raw) = some (encWritten (encPad 4 (encAfterBytes raw)))
      ∧ (encPad 4 (encAfterBytes raw)).coll = !Listing.collisionFree (encodedFields raw) := by
  obtain ⟨slots, lits, hfilled, hs⟩ := encFilled_afterBytes raw
  obtain ⟨_, hpads, _⟩ := hfilled.padsTo hs
  obtain ⟨slots', lits', out, hfilled', hs', hwritten, hassemble, hcoll⟩ := encFilled_reset.passes (by decide) (padded raw)
  rw [foldl_encPass_padded] at hfilled' hwritten hcoll
  obtain rfl : slots' = [] := hfilled'.slots_eq.symm.trans hpads.filled.slots_eq
  have hbytes : assemble (encodedFields raw) = some (out ++ []) := by
    have hnone := hassemble []
    rwa [List.append_nil] at hnone
  refine ⟨?_, ?_⟩
  · rw [hwritten, hbytes, List.append_nil]
    rfl
  · simpa [slotsCollisionFree, EncState.reset, Listing.collisionFree, encodedFields] using hcoll

theorem EncReady.passes {inp : List EncToken} {e : EncState} (h : EncReady inp e) (raw : List Byte) :
    EncReady inp (raw.foldl (fun e b => encPass b e) e) := by
  induction raw generalizing e with
  | nil => exact h
  | cons b raw ih => exact ih (h.pass b)

/-- The encode run writes the assembly of the chosen fields and the sentinel, and its flag says whether the fields collide. -/
theorem encodeRun_eq (raw : List Byte) :
    ∃ t body, encodeRun raw = .next t ∧ assemble (encodedFields raw) = some body
      ∧ t.enc.out = body ++ [Config.sentinel] ∧ t.enc.coll = !Listing.collisionFree (encodedFields raw) := by
  obtain ⟨hbody, hcoll⟩ := assemble_encodedFields raw
  have hready : EncReady [] (encAfterBytes raw) := (encReady_reset []).passes raw
  have hpad := hready.pad Config.padMax
  have hrun : encodeRun raw = .next ((encodeStart raw).onEnc fun _ => encEnd (encAfterBytes raw)) := by
    have hstart := run_encode raw (s := encodeStart raw) rfl rfl (encReady_reset _)
    have hlast : withInp [] (raw.foldl (fun e b => encPass b e) (withInp (encTokens raw) EncState.reset))
        = encAfterBytes raw := by
      rw [foldl_encPass_withInp]
      exact congrArg (withInp · (encAfterBytes raw)) hready.inp_eq.symm
    rw [← hlast]
    exact hstart
  refine ⟨_, _, hrun, hbody, ?_, ?_⟩
  · rw [onEnc_enc, hready.encEnd_eq, encWritten, ← Config.padMax, hpad.outq, List.append_nil]
  · rw [onEnc_enc, hready.encEnd_eq]
    exact hcoll

/-- Settles O40: the run by its passes, the listing by what ENC chooses. -/
theorem encoderWritesTheAssembledListing : Obligations.EncoderWritesTheAssembledListing := by
  intro raw
  obtain ⟨t, body, hrun, hbody, hout, hcoll⟩ := encodeRun_eq raw
  have hsent := encodedFields_ne_sent raw
  have hassemble : assemble (encodedFields raw ++ [.sent]) = some t.enc.out := by
    rw [assemble_append_sent hsent, hbody, hout]
    rfl
  have hfits := assemblesExactlyWhenItFits (encodedFields raw ++ [.sent])
  rw [hassemble, Option.isSome_some] at hfits
  have hwf : Listing.wellFormed (encodedFields raw ++ [.sent]) = true := by
    rw [Listing.wellFormed, ← hfits, endsWithSent_append hsent]
    exact historyDefined_fieldsFrom (n := 0) (by simp [OptByte.undef]) (by simp [OptByte.undef]) _
  exact ⟨t, hrun, hassemble, hwf, bytesFrom_fieldsFrom _ _ _, hcoll⟩

/-! ### Decoding what ENC wrote (R106, R123, R124) -/

theorem slotsBeforeCollision_length_lt {slots : List Slot} (h : slotsCollisionFree slots = false) :
    (slotsBeforeCollision slots).length < slots.length := by
  induction slots using slotsBeforeCollision.induct with
  | case1 s0 s1 s2 s3 rest hcoll => simp [slotsBeforeCollision, hcoll]
  | case2 s0 s1 s2 s3 rest hcoll ih =>
    obtain ⟨hlen, hfree⟩ := slotsBeforeCollision_passed rest hcoll
    have := ih (hfree.symm.trans h)
    rw [hlen]
    simp only [List.length_cons]
    omega
  | case3 short hshort => simp [slotsCollisionFree] at h

/-- All fields stand within some slots only if all their slots do. -/
theorem length_le_of_fieldsWithin_eq {n : Nat} {fields : List Instr} (h : fieldsWithin n fields = fields) :
    (fields.flatMap slotsOf).length ≤ n := by
  induction fields generalizing n with
  | nil => exact Nat.zero_le n
  | cons i fields ih =>
    rw [fieldsWithin] at h
    split at h
    next hle =>
      have := ih (List.cons.inj h).2
      rw [List.flatMap_cons, List.length_append, slotCount_eq_length]
      omega
    next => cases h

/-- All fields stand before the first collision exactly if there is none. -/
theorem fieldsBeforeCollision_eq_iff {fields : List Instr} :
    fieldsBeforeCollision fields = fields ↔ Listing.collisionFree fields = true := by
  refine ⟨fun h => ?_, fieldsBeforeCollision_of_free⟩
  by_contra hcoll
  have hlt := slotsBeforeCollision_length_lt (Bool.eq_false_of_not_eq_true hcoll)
  have hle := length_le_of_fieldsWithin_eq h
  omega

/-- The fields before the first collision stand for the first bytes of the padded sequence. -/
theorem bytesFrom_fieldsBeforeCollision (raw : List Byte) :
    bytesFrom .undef .undef (fieldsBeforeCollision (encodedFields raw))
      = (padded raw).take (fieldsBeforeCollision (encodedFields raw)).length := by
  have hprefix := List.prefix_iff_eq_take.mp (fieldsBeforeCollision_prefix (encodedFields raw))
  conv_lhs => rw [hprefix, encodedFields, fieldsFrom_take, bytesFrom_fieldsFrom]
  rfl

/-- The decode run on what the encode run wrote. -/
theorem decodeRun_encodeRun (raw : List Byte) :
    ∃ t u, encodeRun raw = .next t ∧ decodeRun t.enc.out = .next u ∧ endedAtSentinel u = true
      ∧ u.dec.out = bytesFrom .undef .undef (fieldsBeforeCollision (encodedFields raw))
      ∧ t.enc.coll = !Listing.collisionFree (encodedFields raw) := by
  obtain ⟨t, body, hrun, hbody, hout, hcoll⟩ := encodeRun_eq raw
  obtain ⟨c', hreads, hend⟩ := reads_of_assemble (encodedFields_ne_sent raw) hbody [.byte Config.sentinel, .eof]
  have hsent : ∃ after, decode c' = .instr .sent after := by
    rcases hend with ⟨_, hrem, hinp⟩ | ⟨_, hsent⟩
    · exact ⟨_, decode_boundary_sentinel hrem hinp⟩
    · exact hsent
  obtain ⟨after, hsent⟩ := hsent
  have hlen : (fieldsBeforeCollision (encodedFields raw)).length ≤ (padded raw).length := by
    rw [← fieldsFrom_length .undef .undef (padded raw)]
    exact (fieldsBeforeCollision_prefix _).length_le
  have hbytes : (bytesFrom .undef .undef (fieldsBeforeCollision (encodedFields raw))).length
      = (fieldsBeforeCollision (encodedFields raw)).length := by
    rw [bytesFrom_fieldsBeforeCollision, List.length_take, Nat.min_eq_left hlen]
  obtain ⟨u, hdec, hdecOut, hended, _⟩ := decodeRun_of_reads (bytes := t.enc.out)
    (by simpa [Cursor.start, decTokens, hout] using hreads) hsent hbytes
  exact ⟨t, u, hrun, hdec, hended, hdecOut, hcoll⟩

/-- Settles O43: the fields that DEC reads stand for the first bytes of the padded sequence, and are all fields exactly if no
collision was flagged. -/
theorem decodingAnEncodedStreamGivesAPrefix : Obligations.DecodingAnEncodedStreamGivesAPrefix := by
  intro raw
  obtain ⟨t, u, hrun, hdec, hended, hout, hcoll⟩ := decodeRun_encodeRun raw
  have htake := hout.trans (bytesFrom_fieldsBeforeCollision raw)
  refine ⟨t, u, hrun, hdec, hended, hout, htake, ?_, ?_⟩
  · rw [htake]
    exact List.take_prefix _ _
  · have hlen := fieldsFrom_length .undef .undef (padded raw)
    have hprefix := fieldsBeforeCollision_prefix (encodedFields raw)
    calc u.dec.out = padded raw ↔ (padded raw).length ≤ (fieldsBeforeCollision (encodedFields raw)).length := by
          rw [htake, List.take_eq_self_iff]
      _ ↔ fieldsBeforeCollision (encodedFields raw) = encodedFields raw := by
          rw [← hlen]
          exact ⟨fun hle => hprefix.eq_of_length_le hle, fun heq => by rw [heq]; rfl⟩
      _ ↔ t.enc.coll = false := by
          rw [fieldsBeforeCollision_eq_iff, hcoll, Bool.not_eq_false']

/-- Settles O42: without a collision what O43 gives is all of the padded sequence. -/
theorem roundTripWithoutCollision : Obligations.RoundTripWithoutCollision := by
  intro raw
  obtain ⟨t, u, hrun, hdec, hended, _, _, _, hall⟩ := decodingAnEncodedStreamGivesAPrefix raw
  exact ⟨t, u, hrun, fun hcoll => ⟨hdec, hall.mpr hcoll, padCountOf_le raw, hended⟩⟩

end Sys2Proof.Proofs
end

section
/-! Facts about single bytes: words of the format (R58, R59), the control byte 0x01 (R62, R105) and options that coincide (R83). -/

namespace Sys2Proof.Proofs

open Sys2Proof.Machine

/-! ### Words and control bytes -/

/-- Settles O33: by evaluation of the decoder on the written-out words. -/
theorem specWordsDecode : Obligations.SpecWordsDecode := by
  rw [Obligations.SpecWordsDecode]
  decide

/-- A control byte determines its slots (R56). -/
theorem packByte_inj {s0 s1 s2 s3 t0 t1 t2 t3 : Slot} (h : packByte s0 s1 s2 s3 = packByte t0 t1 t2 t3) :
    s0 = t0 ∧ s1 = t1 ∧ s2 = t2 ∧ s3 = t3 := by
  obtain ⟨h0, h1, h2, h3⟩ := extractLsb'_packByte s0 s1 s2 s3
  obtain ⟨k0, k1, k2, k3⟩ := extractLsb'_packByte t0 t1 t2 t3
  rw [h] at h0 h1 h2 h3
  exact ⟨h0.symm.trans k0, h1.symm.trans k1, h2.symm.trans k2, h3.symm.trans k3⟩

/-- Settles O36: 0x01 is the packing of its four slots, and the two runs are evaluated. -/
theorem collisionsAreReachable : Obligations.CollisionsAreReachable := by
  refine ⟨fun s0 s1 s2 s3 => ⟨fun h => packByte_inj (h.trans (show _ = packByte 0b00#2 0b00#2 0b00#2 0b01#2 from rfl)), ?_⟩,
    ⟨_, rfl, rfl, rfl⟩, ⟨_, rfl, rfl, rfl⟩⟩
  rintro ⟨rfl, rfl, rfl, rfl⟩
  rfl

/-! ### Options that coincide (R83) -/

/-- A byte joined with something is never what it is met with something, but where both are the byte itself. -/
theorem or_eq_and_self {b x y : Byte} (h : b ||| x = b &&& y) : b ||| x = b ∧ b &&& y = b := by
  have hmet : b &&& y = b := by
    ext i hi
    have hbit : (b ||| x)[i] = (b &&& y)[i] := by rw [h]
    rw [BitVec.getElem_or, BitVec.getElem_and] at hbit
    rw [BitVec.getElem_and]
    cases hb : b[i] with
    | false => rfl
    | true => simpa [hb] using hbit.symm
  exact ⟨h.trans hmet, hmet⟩

/-- Settles O24: the counts by enumeration of the 256 bytes, as the spec derives them (R83); the other pairs are each a join and a
meet of the byte. -/
theorem coincidingOptions : Obligations.CoincidingOptions := by
  refine ⟨by decide, by decide, by decide, fun b _ => ⟨fun h => ?_, fun h => ?_, fun h => ?_, fun h => ?_⟩⟩
  · rw [opt0_eq, opt1_eq] at h
    rw [opt0_eq, (or_eq_and_self h).1]
  · rw [opt0_eq, opt3] at h
    rw [opt0_eq, (or_eq_and_self h).1]
  · rw [opt1_eq, opt2] at h
    rw [opt1_eq, (or_eq_and_self h.symm).2]
  · rw [opt2, opt3] at h
    rw [opt2, (or_eq_and_self h).1]

end Sys2Proof.Proofs
end
